-- ==== Sys2Proof/Word.lean ====
section
/-! DEFINITION. The word types of the PixelSum SAT engine (00_scope.md R6, R10; 30_encoding.md R110). -/

namespace Sys2Proof

/-- A 32-bit register word, and a 32-bit cell of the SUM and NZ tables (R6 `ACC_BITS`, R32). -/
abbrev Word := BitVec 32

/-- One 8-bit source sample (R6 `PIXEL_BITS`). -/
abbrev Byte := BitVec 8

/-- A byte offset within the 4096-byte register window, `off[11:0]` (R110). -/
abbrev Offset := BitVec 12

/-- The 64-bit encoding of a binary64 value (R17 `bits64`). -/
abbrev Bits64 := BitVec 64

end Sys2Proof
end

