-- ==== Sys2Proof/Config.lean ====
section
/-! DEFINITION. What one implementation fixes (00_scope.md R7, R8, R10; 92_eei_decisions.md's OPEN parameters) and the
free values of the model: what the spec leaves unspecified or undefined (10_state.md R53; 20_memory.md R85;
70_reset_and_hazards.md R342). A constant declared `opaque` has no value that Lean can see. -/

namespace Sys2Proof

/-- `MAX_CELLS` = 4096 × 4096 = 2^24, the number of cells of each internal memory (R7). -/
def Config.maxCells : Nat := 16777216

/-- OPEN (R8, 92 D30): whether the lane count is 16; otherwise it is 8. -/
opaque Config.lanesAre16 : Bool

/-- `LANES` ∈ {8, 16} (R8). -/
def Config.lanes : Nat := if Config.lanesAre16 then 16 else 8

/-- OPEN (R8, 92 D30): `VEC_PRESENT`, whether the block has the vectorised datapath. -/
opaque Config.vecPresent : Bool

/-- OPEN (R10, 92 D2): `PSE_BASE`, where the platform maps the 4096-byte window. -/
opaque Config.pseBase : Nat

/-- The host address of a byte offset of the window (R32, R92). -/
def Config.registerAddress (off : Offset) : Nat := Config.pseBase + off.toNat

/-- OPEN (R319, 92 D17): `PSE_IRQ_LINE`, the interrupt-controller input the platform wires IRQ to. -/
opaque Config.irqLine : Nat

/-- Free value (R55, R85, R342): what a SRC cell holds that nothing has written. The first argument counts the
occasions on which contents became unspecified, the second is the cell index. -/
opaque Config.unspecifiedSrc : Nat → Nat → Byte

/-- Free value (R85, R342): an unspecified cell of SUM. -/
opaque Config.unspecifiedSum : Nat → Nat → Word

/-- Free value (R85, R342): an unspecified cell of NZ. -/
opaque Config.unspecifiedNz : Nat → Nat → Word

/-- Free value (R53, R262, R340): the table width that CLEAR and a reset leave undefined. -/
opaque Config.undefinedWidth : Nat → Nat

/-- Free value (R53, R262, R340): the table height that CLEAR and a reset leave undefined. -/
opaque Config.undefinedHeight : Nat → Nat

/-- Free value (R52, R340): what a reset leaves in a latch. The second argument numbers the latches of R52 from 0. -/
opaque Config.unspecifiedLatch : Nat → Nat → Word

end Sys2Proof
end

