-- ==== Sys2Proof/Syntax.lean ====
section
/-! DEFINITION. The bus transactions (30_encoding.md R110), the eleven commands (R114) and the operations of
spec/opcode_table.json: `Instr` has one constructor for each of its 27 rows. -/

namespace Sys2Proof

/-- The direction of a host access (R110). -/
inductive Dir where
  | read
  | write
  deriving DecidableEq, Repr

/-- A bus transaction of the HOST (R110): `off` is the byte offset in the window, `size` the access width in bytes. -/
inductive BusTxn where
  | write (off : Offset) (size : Nat) (data : Word)
  | read (off : Offset) (size : Nat)
  deriving DecidableEq, Repr

/-- The commands of the opcode map (R114). -/
inductive Command where
  | nop | build | clear
  | qsum | qavg | qnzc | qnzavg
  | trdSum | trdNz
  | spanSum | spanNzc
  deriving DecidableEq, Repr

/-- The operations of the block, one constructor per row of spec/opcode_table.json. A command is a write of its word
to offset 0x028; a `wr…` operation is a well-formed 32-bit write at the register's offset, `data` its data word. -/
inductive Instr where
  | nop
  | build
  | clear
  | qsum
  | qavg
  | qnzc
  | qnzavg
  | trdSum
  | trdNz
  | spanSum
  | spanNzc
  | wrCtrl (data : Word)
  | wrStatus (data : Word)
  | wrXwidth (data : Word)
  | wrYheight (data : Word)
  | wrSrcAddr (data : Word)
  | wrSrcData8 (data : Word)
  | wrSrcData32 (data : Word)
  | wrQX0 (data : Word)
  | wrQY0 (data : Word)
  | wrQX1 (data : Word)
  | wrQY1 (data : Word)
  | wrSpanAddr (data : Word)
  | wrSpanLen (data : Word)
  /-- A well-formed write to a read-only or reserved offset (R273). -/
  | wrRoOrReserved (off : Offset) (data : Word)
  /-- An access that is not 32 bits wide or not 4-aligned, in either direction (R88, R273). -/
  | busMalformed (dir : Dir) (off : Offset) (size : Nat)
  /-- A well-formed 32-bit read (R112, R274). -/
  | rd (off : Offset)
  deriving DecidableEq, Repr

/-- The operation a command word stands for (R114). -/
def Command.instr : Command → Instr
  | .nop => .nop
  | .build => .build
  | .clear => .clear
  | .qsum => .qsum
  | .qavg => .qavg
  | .qnzc => .qnzc
  | .qnzavg => .qnzavg
  | .trdSum => .trdSum
  | .trdNz => .trdNz
  | .spanSum => .spanSum
  | .spanNzc => .spanNzc

end Sys2Proof
end

