-- ==== Sys2Proof/Machine/State.lean ====
section
/-! DEFINITION. The architectural state of the block (10_state.md, 20_memory.md R80), the two ways a step of the model
can stop, and the state after reset (70_reset_and_hazards.md R340, R341). -/

namespace Sys2Proof.Machine

/-- Why a step of the model stops. The block's own faults (60_exceptions.md R300) are NOT these: a fault of the block is
a next state, taken as R314 says. -/
inductive Fault where
  /-- Raised by the ENGINE's completion step (R261) where BUSY = 1 and the opcode of the latched command word is none of
  R114, so that no completion rule applies. Only a state that no run reaches is like this: acceptance latches legal
  words alone (R260). SAFE: the model stops where the spec gives no step. -/
  | undefinedLatchedCommand
  deriving DecidableEq, Repr

/-- Why the model refuses a step. -/
inductive Refusal where
  /-- An instruction of the opcode table with no meaning yet. Raised by no arm: every row has its meaning. SAFE. -/
  | notModelled (mnemonic : String)
  deriving DecidableEq, Repr

/-- The engine state of R30. -/
inductive EngineState where
  | empty
  | building
  | ready
  | faulted
  deriving DecidableEq, Repr

/-- The fault codes of R300; `none` is code 0x00. -/
inductive FaultCode where
  | none
  | badDim
  | size
  | srcUnwritten
  | notReady
  | immutable
  | busy
  | illegalCmd
  | srcRange
  | index
  | spanRange
  | bus
  deriving DecidableEq, Repr

/-- The operand registers (R37, R38, R43, R44, R45, R50). -/
structure OperandRegs where
  xwidth : Word
  yheight : Word
  qX0 : Word
  qY0 : Word
  qX1 : Word
  qY1 : Word
  spanAddr : Word
  spanLen : Word
  deriving DecidableEq, Repr

/-- The result registers (R46, R47, R48, R50). -/
structure ResultRegs where
  u32 : Word
  f64Lo : Word
  f64Hi : Word
  rectX0 : Word
  rectY0 : Word
  rectX1 : Word
  rectY1 : Word
  deriving DecidableEq, Repr

/-- The hidden latches of R52. A coordinate is held as its 32-bit word and read as `as_i32`. -/
structure Latches where
  cmd : Word
  x0 : Word
  y0 : Word
  x1 : Word
  y1 : Word
  sa : Word
  sl : Word
  deriving DecidableEq, Repr

/-- What the outside world, or the scheduler between the two agents, does next (R12, R94, R340). -/
inductive Input where
  /-- The HOST issues a bus transaction. -/
  | access (t : BusTxn)
  /-- The ENGINE takes its completion step, if one is enabled (R261). -/
  | engine
  /-- The platform drives the reset input RST active. -/
  | rstAssert
  /-- The platform releases RST. -/
  | rstRelease
  deriving DecidableEq, Repr

/-- The model's own fields: the block's surroundings. `script` is the rest of the interleaving (R94), `readData` the word
the last host read returned, `rst` the level of the reset input (R340). -/
structure HostPort where
  script : List Input
  readData : Word
  rst : Bool
  deriving DecidableEq, Repr

/-- The state of the block. -/
structure State where
  /-- `state` (R30). -/
  engine : EngineState
  /-- `STATUS.BUSY` (R35), which is also the pending-command marker (R57). -/
  busy : Bool
  /-- `STATUS.DONE` (R35). -/
  done : Bool
  /-- `STATUS.FAULT_CODE` (R35). -/
  faultCode : FaultCode
  /-- `FAULT_INFO` (R36). -/
  faultInfo : Word
  /-- `CTRL.IE` (R34). -/
  ie : Bool
  /-- `SRC_ADDR` (R39). -/
  srcAddr : Word
  ops : OperandRegs
  res : ResultRegs
  lat : Latches
  /-- The hidden `W` (R53). -/
  tabW : Nat
  /-- The hidden `H` (R53). -/
  tabH : Nat
  /-- SRC with its VALID map: `VALID[i]` is 1 exactly when index i is listed (R54, R85). -/
  src : List Host.Cell
  /-- SUM, the cells that hold a specified value (R80, R85). -/
  sum : List (Nat × Word)
  /-- NZ, the cells that hold a specified value (R80, R85). -/
  nz : List (Nat × Word)
  /-- The model's own: on how many occasions contents became unspecified. It is only the argument of the free values. -/
  era : Nat
  host : HostPort
  deriving DecidableEq, Repr

/-- Right after reset (R340, R341). The latches, W and H, for which the spec gives no value, are zero: DESIGN CHOICE,
notes/assumptions/2.md and 3.md. -/
def State.reset : State where
  engine := .empty
  busy := false
  done := false
  faultCode := .none
  faultInfo := 0
  ie := false
  srcAddr := 0
  ops := { xwidth := 0, yheight := 0, qX0 := 0, qY0 := 0, qX1 := 0, qY1 := 0, spanAddr := 0, spanLen := 0 }
  res := { u32 := 0, f64Lo := 0, f64Hi := 0, rectX0 := 0, rectY0 := 0, rectX1 := 0, rectY1 := 0 }
  lat := { cmd := 0, x0 := 0, y0 := 0, x1 := 0, y1 := 0, sa := 0, sl := 0 }
  tabW := 0
  tabH := 0
  src := []
  sum := []
  nz := []
  era := 0
  host := { script := [], readData := 0, rst := false }

end Sys2Proof.Machine
end

