-- ==== Sys2Proof/Machine/Flags.lean ====
section
/-! DEFINITION. The status and control words, the CAP word and the IRQ output (10_state.md R33 to R35, R58). -/

namespace Sys2Proof.Machine

/-- The two bits of `STATUS.STATE` (R30, R35). -/
def EngineState.code : EngineState → BitVec 2
  | .empty => 0
  | .building => 1
  | .ready => 2
  | .faulted => 3

/-- The byte of `STATUS.FAULT_CODE` (R300). -/
def FaultCode.byte : FaultCode → Byte
  | .none => 0x00
  | .badDim => 0x01
  | .size => 0x02
  | .srcUnwritten => 0x03
  | .notReady => 0x04
  | .immutable => 0x05
  | .busy => 0x06
  | .illegalCmd => 0x07
  | .srcRange => 0x08
  | .index => 0x09
  | .spanRange => 0x0A
  | .bus => 0x0B

/-- `STATUS.FAULT`: 1 exactly when `state` is FAULTED (R35). -/
def faultFlag (s : State) : Bool := s.engine == .faulted

/-- The STATUS word (R35): FAULT_CODE in [15:8], STATE in [5:4], FAULT, DONE, BUSY in [2:0], the rest 0. -/
def statusWord (s : State) : Word :=
  (0 : BitVec 16) ++ s.faultCode.byte ++ (0 : BitVec 2) ++ s.engine.code ++ (0 : BitVec 1) ++
    BitVec.ofBool (faultFlag s) ++ BitVec.ofBool s.done ++ BitVec.ofBool s.busy

/-- The CTRL word as read (R34, R112): IE in bit 1, all else 0. -/
def ctrlWord (s : State) : Word :=
  (0 : BitVec 30) ++ BitVec.ofBool s.ie ++ (0 : BitVec 1)

/-- The CAP word of a block with the given parameters (R33): interface version, log2 of MAX_CELLS, VEC_PRESENT,
LANES. -/
def capWord (lanes : Nat) (vecPresent : Bool) : Word :=
  (1 : BitVec 8) ++ (24 : BitVec 8) ++ (0 : BitVec 7) ++ BitVec.ofBool vecPresent ++ BitVec.ofNat 8 lanes

/-- The ID word (R32). -/
def idWord : Word := 0x50534154

/-- The IRQ output (R58, R319). -/
def irq (s : State) : Bool := s.ie && (s.done || faultFlag s)

end Sys2Proof.Machine
end

