-- ==== Sys2Proof/Machine/Rect.lean ====
section
/-! DEFINITION. The Rect utility, the query rectangle datapath (41_rect.md). All arithmetic is on mathematical integers. -/

namespace Sys2Proof.Machine

/-- R140: two opposite corners, neither ordered nor in bounds. -/
structure Rect where
  x0 : Int
  y0 : Int
  x1 : Int
  y1 : Int
  deriving DecidableEq, Repr

/-- The source's clamp (R13, R142). -/
def clamp (v lo hi : Int) : Int := min hi (max v lo)

/-- R141: each axis ordered independently. -/
def normalized (r : Rect) : Rect where
  x0 := min r.x0 r.x1
  y0 := min r.y0 r.y1
  x1 := max r.x0 r.x1
  y1 := max r.y0 r.y1

/-- R142: each of the four fields clamped independently. -/
def intersected (r : Rect) (minX minY maxX maxY : Int) : Rect where
  x0 := clamp r.x0 minX maxX
  y0 := clamp r.y0 minY maxY
  x1 := clamp r.x1 minX maxX
  y1 := clamp r.y1 minY maxY

/-- R143: normalise, then intersect with the buffer of `w` columns and `h` rows. -/
def clampRect (w h : Nat) (q : Rect) : Rect :=
  intersected (normalized q) 0 0 (w - 1) (h - 1)

/-- R144: exact, right for corners in any order. -/
def getWidth (r : Rect) : Nat := (r.x1 - r.x0).natAbs + 1

/-- R144. -/
def getHeight (r : Rect) : Nat := (r.y1 - r.y0).natAbs + 1

end Sys2Proof.Machine
end

