-- ==== Sys2Proof/Machine/Operands.lean ====
section
/-! DEFINITION. The readings of operands (00_scope.md R13; 30_encoding.md R116, R117; 20_memory.md R86). -/

namespace Sys2Proof.Machine

/-- `as_i32` (R13). -/
abbrev asI32 (w : Word) : Int := w.toInt

/-- `as_u32` (R13): the integer modulo 2^32. -/
def asU32 (n : Int) : Word := BitVec.ofInt 32 n

/-- Byte `k` of a data word, `data[8k+7:8k]` (R86: the least significant byte is byte 0). -/
def dataByte (data : Word) (k : Nat) : Byte := data.extractLsb' (8 * k) 8

/-- The query rectangle `q` of the latched corners (R140). -/
def queryRect (s : State) : Rect where
  x0 := asI32 s.lat.x0
  y0 := asI32 s.lat.y0
  x1 := asI32 s.lat.x1
  y1 := asI32 s.lat.y1

/-- The first index of the latched span (R172). -/
def spanStart (s : State) : Nat := s.lat.sa.toNat

/-- The length of the latched span (R172). -/
def spanCount (s : State) : Nat := s.lat.sl.toNat

end Sys2Proof.Machine
end

