-- ==== Sys2Proof/Machine/Ops.lean ====
section
/-! DEFINITION. The shared operations: the internal memories (20_memory.md), the reset action (70_reset_and_hazards.md
R340), fault entry (60_exceptions.md R314), command acceptance and completion (45_control.md R260, R261) and the
filters every register write passes (R264 to R273). -/

namespace Sys2Proof.Machine

/-! ## Memories as lists of cells in rising order of index -/

/-- The value listed at an index, if any. -/
def Memory.lookup {α : Type} : List (Nat × α) → Nat → Option α
  | [], _ => none
  | (j, v) :: m, i => if i = j then some v else Memory.lookup m i

/-- Write one whole cell (R81); the last write wins (R266). -/
def Memory.insert {α : Type} (i : Nat) (v : α) : List (Nat × α) → List (Nat × α)
  | [] => [(i, v)]
  | (j, w) :: m =>
    if i < j then (i, v) :: (j, w) :: m
    else if i = j then (i, v) :: m
    else (j, w) :: Memory.insert i v m

/-- The values as cells of consecutive indices from `i`. -/
def Memory.ofListFrom {α : Type} (i : Nat) : List α → List (Nat × α)
  | [] => []
  | v :: vs => (i, v) :: Memory.ofListFrom (i + 1) vs

/-- The canonical form above a lower bound: indices strictly rise from at least `lo` and stay below `MAX_CELLS`. -/
def Memory.wfFrom {α : Type} (lo : Nat) : List (Nat × α) → Bool
  | [] => true
  | (j, _) :: m => decide (lo ≤ j) && decide (j < Config.maxCells) && Memory.wfFrom (j + 1) m

/-- The canonical form of a memory. An unlisted index reads as no value, so no entry can equal what it reads as. -/
def Memory.wf {α : Type} (m : List (Nat × α)) : Bool := Memory.wfFrom 0 m

/-! ## The cells of the three memories -/

/-- `VALID[i]` (R54). -/
def srcValid (s : State) (i : Nat) : Bool := (Memory.lookup s.src i).isSome

/-- `MemRead(SRC, i, 1)` (R15); an unwritten cell holds a free value (R85). -/
def srcCell (s : State) (i : Nat) : Byte :=
  (Memory.lookup s.src i).getD (Config.unspecifiedSrc s.era i)

/-- `MemRead(SUM, i, 4)` (R15); an unbuilt cell holds a free value (R85). -/
def sumCell (s : State) (i : Nat) : Word :=
  (Memory.lookup s.sum i).getD (Config.unspecifiedSum s.era i)

/-- `MemRead(NZ, i, 4)` (R15); an unbuilt cell holds a free value (R85). -/
def nzCell (s : State) (i : Nat) : Word :=
  (Memory.lookup s.nz i).getD (Config.unspecifiedNz s.era i)

/-- The index of column `x`, row `y` in a table of `w` columns (R82). -/
def cellIndex (w : Nat) (x y : Int) : Nat := (y * w + x).toNat

/-- `MemWrite(SRC, i, 1, v)` and `VALID[i] <- 1` (R266). -/
def storePixel (i : Nat) (v : Byte) (s : State) : State :=
  { s with src := Memory.insert i v s.src }

/-- The lowest index of the `n` from `a` whose VALID bit is 0 (R172, R191). -/
def firstUnwritten (s : State) : (n a : Nat) → Option Nat
  | 0, _ => none
  | n + 1, a => if srcValid s a then firstUnwritten s n (a + 1) else some a

/-- Sum of `f` over the `n` indices from `a`, modulo 2^32. -/
def sumRange (f : Nat → Word) : (n a : Nat) → Word
  | 0, _ => 0
  | n + 1, a => f a + sumRange f n (a + 1)

/-- A pixel's value as a 32-bit word, `zext_32` (R193). -/
def pixelValue (v : Byte) : Word := v.setWidth 32

/-- A pixel's count indicator (R163, R193). -/
def pixelNonZero (v : Byte) : Word := if v ≠ 0 then 1 else 0

/-! ## Reset and fault entry -/

/-- What a reset leaves in the latches: unspecified words (R52, R340). -/
def unspecifiedLatches (era : Nat) : Latches :=
  { cmd := Config.unspecifiedLatch era 0, x0 := Config.unspecifiedLatch era 1, y0 := Config.unspecifiedLatch era 2,
    x1 := Config.unspecifiedLatch era 3, y1 := Config.unspecifiedLatch era 4, sa := Config.unspecifiedLatch era 5,
    sl := Config.unspecifiedLatch era 6 }

/-- The reset action (R340): every register as R341 says, VALID clear; W, H, the latches and all contents are left
undefined or unspecified, so they become free values. The surroundings of the block are not its state. -/
def resetBlock (s : State) : State :=
  { State.reset with
    tabW := Config.undefinedWidth s.era
    tabH := Config.undefinedHeight s.era
    lat := unspecifiedLatches s.era
    era := s.era + 1
    host := s.host }

/-- SUM and NZ become unspecified (R192, R314). -/
def dropTables (s : State) : State :=
  { s with sum := [], nz := [], era := s.era + 1 }

/-- Fault entry, `raise Fault(code, info)` (R314): it is the block's only exception. There is no return (R317). -/
def raiseFault (code : FaultCode) (info : Word) (s : State) : State :=
  { (if s.engine = .building then dropTables s else s) with
    engine := .faulted
    faultCode := code
    faultInfo := info
    busy := false }

/-! ## Commands -/

/-- R305: a query or table read with no tables. -/
def needTables (word : Word) (s : State) : Option (FaultCode × Word) :=
  if s.engine = .empty then some (.notReady, word) else none

/-- R306: BUILD of a built engine. -/
def needNoTables (word : Word) (s : State) : Option (FaultCode × Word) :=
  if s.engine = .ready then some (.immutable, word) else none

/-- The latching of R260: the operands of R52, BUSY and DONE. -/
def latchCommand (word : Word) (s : State) : State :=
  { s with
    lat := { cmd := word, x0 := s.ops.qX0, y0 := s.ops.qY0, x1 := s.ops.qX1, y1 := s.ops.qY1,
             sa := s.ops.spanAddr, sl := s.ops.spanLen }
    busy := true
    done := false }

/-- Command acceptance (R260). `check` is the state check and the command's own checks, `start` what acceptance does
besides latching. The checks of R226 and R172 read the latches "at acceptance", which are the live registers then. -/
def acceptCommand (word : Word) (check : State → Option (FaultCode × Word)) (start : State → State) (s : State) :
    State :=
  if s.engine = .faulted then s
  else if s.busy then raiseFault .busy 0x028 s
  else match check s with
    | some (code, info) => raiseFault code info s
    | none => latchCommand word (start s)

/-- A CMD write whose word is illegal (R118, R260, R308). -/
def acceptIllegal (word : Word) (s : State) : State :=
  acceptCommand word (fun _ => some (.illegalCmd, word)) id s

/-- What every completion does last (R261). -/
def finishCommand (s : State) : State := { s with busy := false, done := true }

/-! ## Register writes and accesses -/

/-- In FAULTED every write but those to CTRL and STATUS is ignored (R272). -/
def unlessFaulted (act : State → State) (s : State) : State :=
  if s.engine = .faulted then s else act s

/-- A write that a pending command forbids (R264 to R267). -/
def unlessBusy (off : Word) (act : State → State) (s : State) : State :=
  if s.busy then raiseFault .busy off s else act s

/-- A write that built tables forbid (R264, R266, R267). -/
def unlessReady (off : Word) (act : State → State) (s : State) : State :=
  if s.engine = .ready then raiseFault .immutable off s else act s

/-- Write an operand register. -/
def setOperands (f : OperandRegs → OperandRegs) (s : State) : State := { s with ops := f s.ops }

/-- Return a word to the host's read. -/
def returnRead (v : Word) (s : State) : State := { s with host := { s.host with readData := v } }

end Sys2Proof.Machine
end

