-- ==== Sys2Proof/Machine/Bus.lean ====
section
/-! DEFINITION. Register reads (30_encoding.md R112; 45_control.md R274) and malformed accesses (R88, R273). -/

namespace Sys2Proof.Machine

/-- The readable registers and their current values (R32, R112). -/
def readableRegisters (s : State) : List (Offset × Word) :=
  [ (0x000, idWord),
    (0x004, capWord Config.lanes Config.vecPresent),
    (0x008, ctrlWord s),
    (0x00C, statusWord s),
    (0x010, s.faultInfo),
    (0x014, s.ops.xwidth),
    (0x018, s.ops.yheight),
    (0x01C, s.srcAddr),
    (0x02C, s.ops.qX0),
    (0x030, s.ops.qY0),
    (0x034, s.ops.qX1),
    (0x038, s.ops.qY1),
    (0x03C, s.ops.spanAddr),
    (0x040, s.ops.spanLen),
    (0x044, s.res.u32),
    (0x048, s.res.f64Lo),
    (0x04C, s.res.f64Hi),
    (0x050, s.res.rectX0),
    (0x054, s.res.rectY0),
    (0x058, s.res.rectX1),
    (0x05C, s.res.rectY1) ]

/-- The value of a register read; the write-only and the reserved offsets read 0 (R49, R112). -/
def readRegister (off : Offset) (s : State) : Word :=
  ((readableRegisters s).lookup off).getD 0

/-- R274: a read returns the register's value in every state and changes nothing of the block. -/
def execRd (off : Offset) (s : State) : Host.Outcome State Fault Refusal :=
  .next (returnRead (readRegister off s) s)

/-- The word a faulted or ignored access returns: 0 for a read (R88, R273), none for a write. -/
def returnNothing (dir : Dir) (s : State) : State :=
  match dir with
  | .read => returnRead 0 s
  | .write => s

/-- R88, R273: FAULT_BUS with the offset, in FAULTED ignored; a read returns 0 either way. -/
def execBusMalformed (dir : Dir) (off : Offset) (_size : Nat) (s : State) : Host.Outcome State Fault Refusal :=
  .next (returnNothing dir (unlessFaulted (raiseFault .bus (off.setWidth 32)) s))

end Sys2Proof.Machine
end

