-- ==== Sys2Proof/WellFormed.lean ====
section
/-! DEFINITION. Which accesses are well formed (20_memory.md R88; 30_encoding.md R110, R111) and which terms of `Instr`
stand for a transaction of the spec. -/

namespace Sys2Proof

/-- R88: only a 32-bit access at a 4-aligned offset is legal. -/
def malformed (off : Offset) (size : Nat) : Bool :=
  size != 4 || off.toNat % 4 != 0

/-- R111, R312: the read-only registers ID, CAP, FAULT_INFO and RES_U32 to RECT_Y1. -/
def readOnlyOffset (off : Offset) : Bool :=
  off == 0x000 || off == 0x004 || off == 0x010 || (0x044 ≤ off.toNat && off.toNat ≤ 0x05C)

/-- R49: offsets 0x060 to 0xFFC are reserved. -/
def reservedOffset (off : Offset) : Bool :=
  0x060 ≤ off.toNat

/-- The terms that some transaction decodes to (R111, R112, R273). -/
def Instr.wellFormed : Instr → Bool
  | .nop | .build | .clear | .qsum | .qavg | .qnzc | .qnzavg | .trdSum | .trdNz | .spanSum | .spanNzc => true
  | .wrCtrl _ | .wrStatus _ | .wrXwidth _ | .wrYheight _ | .wrSrcAddr _ | .wrSrcData8 _ | .wrSrcData32 _ => true
  | .wrQX0 _ | .wrQY0 _ | .wrQX1 _ | .wrQY1 _ | .wrSpanAddr _ | .wrSpanLen _ => true
  | .wrRoOrReserved off _ => !malformed off 4 && (readOnlyOffset off || reservedOffset off)
  | .busMalformed _ off size => malformed off size
  | .rd off => !malformed off 4

end Sys2Proof
end

