-- ==== Sys2Proof/Decode.lean ====
section
/-! DEFINITION. The decoder of transactions and command words (30_encoding.md R110 to R114, R118), the encoder, and the
reading of a row's word of spec/opcode_table.json as a transaction. -/

namespace Sys2Proof

/-- Why a transaction stands for no row of the opcode table. -/
inductive DecodeError where
  /-- R118: a 32-bit write to CMD whose word is not one of the eleven of R114. -/
  | illegalCommand (word : Word)
  deriving DecidableEq, Repr

/-- The opcode map, `OP` = word[7:0] (R114). -/
def opcodeTable : List (BitVec 8 × Command) :=
  [ (0x00, .nop), (0x01, .build), (0x02, .clear),
    (0x10, .qsum), (0x11, .qavg), (0x12, .qnzc), (0x13, .qnzavg),
    (0x20, .trdSum), (0x21, .trdNz),
    (0x30, .spanSum), (0x31, .spanNzc) ]

/-- The command that an opcode selects (R114). -/
def opcodeCommand (op : BitVec 8) : Option Command :=
  opcodeTable.lookup op

/-- The command word of a command, `zext_32(OP)` (R114). -/
def commandWord : Command → Word
  | .nop => 0x00000000
  | .build => 0x00000001
  | .clear => 0x00000002
  | .qsum => 0x00000010
  | .qavg => 0x00000011
  | .qnzc => 0x00000012
  | .qnzavg => 0x00000013
  | .trdSum => 0x00000020
  | .trdNz => 0x00000021
  | .spanSum => 0x00000030
  | .spanNzc => 0x00000031

/-- Decode of a command word: OP in [7:0], RSV in [31:8] must be 0 (R113, R118). -/
def decodeCommand (word : Word) : Option Command :=
  if word.extractLsb' 8 24 = 0 then opcodeCommand (word.setWidth 8) else none

/-- The offset of CMD (R32, R42). -/
def cmdOffset : Offset := 0x028

/-- The rows of R111 that name an operation of their own, CMD apart. -/
def writeOperations (data : Word) : List (Offset × Instr) :=
  [ (0x008, .wrCtrl data),
    (0x00C, .wrStatus data),
    (0x014, .wrXwidth data),
    (0x018, .wrYheight data),
    (0x01C, .wrSrcAddr data),
    (0x020, .wrSrcData8 data),
    (0x024, .wrSrcData32 data),
    (0x02C, .wrQX0 data),
    (0x030, .wrQY0 data),
    (0x034, .wrQX1 data),
    (0x038, .wrQY1 data),
    (0x03C, .wrSpanAddr data),
    (0x040, .wrSpanLen data) ]

/-- Decode of a well-formed write by its offset, other than to CMD (R111): every other offset is read-only or
reserved. -/
def decodeWrite (off : Offset) (data : Word) : Instr :=
  ((writeOperations data).lookup off).getD (.wrRoOrReserved off data)

/-- The decoder, total on every transaction (R110 to R114, R118, R273). -/
def decode : BusTxn → Except DecodeError Instr
  | .read off size =>
    if malformed off size then .ok (.busMalformed .read off size) else .ok (.rd off)
  | .write off size data =>
    if malformed off size then .ok (.busMalformed .write off size)
    else if off = cmdOffset then
      match decodeCommand data with
      | some c => .ok c.instr
      | none => .error (.illegalCommand data)
    else .ok (decodeWrite off data)

/-- A command as a bus transaction: `W 028 zext_32(OP)` (R125). -/
def encodeCommand (c : Command) : BusTxn :=
  .write cmdOffset 4 (commandWord c)

/-- The encoder: the one transaction of an operation (R111, R112, R125). The data of a malformed write, which R273
ignores, is encoded as 0. -/
def encode : Instr → BusTxn
  | .nop => encodeCommand .nop
  | .build => encodeCommand .build
  | .clear => encodeCommand .clear
  | .qsum => encodeCommand .qsum
  | .qavg => encodeCommand .qavg
  | .qnzc => encodeCommand .qnzc
  | .qnzavg => encodeCommand .qnzavg
  | .trdSum => encodeCommand .trdSum
  | .trdNz => encodeCommand .trdNz
  | .spanSum => encodeCommand .spanSum
  | .spanNzc => encodeCommand .spanNzc
  | .wrCtrl d => .write 0x008 4 d
  | .wrStatus d => .write 0x00C 4 d
  | .wrXwidth d => .write 0x014 4 d
  | .wrYheight d => .write 0x018 4 d
  | .wrSrcAddr d => .write 0x01C 4 d
  | .wrSrcData8 d => .write 0x020 4 d
  | .wrSrcData32 d => .write 0x024 4 d
  | .wrQX0 d => .write 0x02C 4 d
  | .wrQY0 d => .write 0x030 4 d
  | .wrQX1 d => .write 0x034 4 d
  | .wrQY1 d => .write 0x038 4 d
  | .wrSpanAddr d => .write 0x03C 4 d
  | .wrSpanLen d => .write 0x040 4 d
  | .wrRoOrReserved off d => .write off 4 d
  | .busMalformed .write off size => .write off size 0
  | .busMalformed .read off size => .read off size
  | .rd off => .read off 4

/-- The transaction that a row's word of spec/opcode_table.json stands for: a 32-bit word is a command word, written to
CMD; a word of at most 16 bits is the offset of a 32-bit write with data 0 (the table gives the data no bits of its
own). DESIGN CHOICE, notes/assumptions/1.md. -/
def tableTxn (nbits w : Nat) : BusTxn :=
  if nbits ≤ 16 then .write (BitVec.ofNat 12 w) 4 0 else .write cmdOffset 4 (BitVec.ofNat 32 w)

/-- The instruction the decoder reads from a row's word. -/
def decodeTableWord (nbits w : Nat) : Option Instr :=
  match decode (tableTxn nbits w) with
  | .ok i => some i
  | .error _ => none

end Sys2Proof
end

