-- ==== Sys2Proof/Machine/Lanes.lean ====
section
/-! DEFINITION. The vector datapath: the lane primitives (42_lane_primitives.md R160 to R169) and the vectorised span and
row algorithms (R171; 43_construction.md R195, R196). The lane registers are scratch of one command and no state (R56).
The commands complete by the scalar rules, which are normative (R9, R170, R193); that the two agree bit for bit is
stated in Certificates/Slice0/Obligations.lean. -/

namespace Sys2Proof.Machine

/-- `Vec_L(T)`; lane 0 holds the element of lowest index (R16, R160). -/
abbrev Lanes (L : Nat) (α : Type) := Fin L → α

/-- `lane_load(i)` (R161). -/
def laneLoad (L : Nat) (cell : Nat → Byte) (i : Nat) : Lanes L Byte := fun k => cell (i + k)

/-- `lane_widen` (R162). -/
def laneWiden {L : Nat} (b : Lanes L Byte) : Lanes L Word := fun k => (b k).setWidth 32

/-- `lane_nzmask` (R163): the indicator 1, not an all-ones lane. -/
def laneNzmask {L : Nat} (b : Lanes L Byte) : Lanes L Word := fun k => if b k ≠ 0 then 1 else 0

/-- `lane_add` (R164). -/
def laneAdd {L : Nat} (a b : Lanes L Word) : Lanes L Word := fun k => a k + b k

/-- `lane_shift_up(v, s)` (R165): toward higher lanes, zero fill. -/
def laneShiftUp {L : Nat} (v : Lanes L Word) (s : Nat) : Lanes L Word :=
  fun k => if s ≤ k.val then v ⟨k.val - s, Nat.lt_of_le_of_lt (Nat.sub_le _ _) k.isLt⟩ else 0

/-- The shifts of `lane_prefix` that are below `L`: 1, 2, 4 for 8 lanes and 1, 2, 4, 8 for 16 (R166). -/
def laneShifts (L : Nat) : List Nat := [1, 2, 4, 8].filter (· < L)

/-- `lane_prefix` (R166). -/
def lanePrefix {L : Nat} (v : Lanes L Word) : Lanes L Word :=
  (laneShifts L).foldl (fun p s => laneAdd p (laneShiftUp p s)) v

/-- `lane_broadcast` (R167). -/
def laneBroadcast {L : Nat} (c : Word) : Lanes L Word := fun _ => c

/-- `hreduce` (R168). -/
def hreduce {L : Nat} (v : Lanes L Word) : Word := (List.ofFn v).foldl (· + ·) 0

/-- `lane_last` (R169). -/
def laneLast {L : Nat} (v : Lanes L Word) : Word := if h : 0 < L then v ⟨L - 1, Nat.sub_lt h Nat.one_pos⟩ else 0

/-- The full lane groups of R171: `g` groups from index `i`, accumulated into `acc`. -/
def spanGroups {L : Nat} (lane : Lanes L Byte → Lanes L Word) (cell : Nat → Byte) :
    (g i : Nat) → Lanes L Word → Lanes L Word
  | 0, _, acc => acc
  | g + 1, i, acc => spanGroups lane cell g (i + L) (laneAdd acc (lane (laneLoad L cell i)))

/-- R171: full lane groups, horizontal reduction, scalar tail. -/
def spanVec (L : Nat) (lane : Lanes L Byte → Lanes L Word) (unit : Byte → Word) (cell : Nat → Byte) (a n : Nat) : Word :=
  hreduce (spanGroups lane cell (n / L) a (laneBroadcast 0)) + sumRange (fun i => unit (cell i)) (n % L) (a + L * (n / L))

/-- `span_sum_vec(a, n)` (R171). -/
def spanSumVec (L : Nat) (cell : Nat → Byte) (a n : Nat) : Word := spanVec L laneWiden pixelValue cell a n

/-- The count version of `span_sum_vec` (R171). -/
def spanNzcVec (L : Nat) (cell : Nat → Byte) (a n : Nat) : Word := spanVec L laneNzmask pixelNonZero cell a n

/-! ## Rows and tables -/

/-- The inner loop of R193: `n` columns of a row from column `x` with the running row-local prefix `acc`; each cell adds
the cell above it. -/
def scanRow (val above : Nat → Word) : (n x : Nat) → (acc : Word) → List Word
  | 0, _, _ => []
  | n + 1, x, acc => (acc + val x + above x) :: scanRow val above n (x + 1) (acc + val x)

/-- The outer loop of R193 and R195: `h` rows from row `y`, `tbl` the table cells written so far, `row` the way a row is
computed from the row above it. -/
def buildRows (w : Nat) (row : (y : Nat) → (above : Nat → Word) → List Word) : (h y : Nat) → List Word → List Word
  | 0, _, tbl => tbl
  | h + 1, y, tbl =>
    buildRows w row h (y + 1)
      (tbl ++ row y (fun x => if y = 0 then 0 else tbl.getD ((y - 1) * w + x) 0))

/-- R193: the table of `unit` over the `w × h` buffer by the scalar recurrence, cells in order of index. -/
def scalarTable (unit : Byte → Word) (cell : Nat → Byte) (w h : Nat) : List Word :=
  buildRows w (fun y above => scanRow (fun x => unit (cell (y * w + x))) above w 0 0) h 0 []

/-- The full lane groups of one row (R195): `g` groups from column `x` with carry `c`; the cells and the carry out. -/
def rowGroups {L : Nat} (load : Nat → Lanes L Word) (above : Nat → Word) : (g x : Nat) → (c : Word) → List Word × Word
  | 0, _, c => ([], c)
  | g + 1, x, c =>
    let p := laneAdd (lanePrefix (load x)) (laneBroadcast c)
    let r := rowGroups load above g (x + L) (laneLast p)
    (List.ofFn (fun k => p k + above (x + k.val)) ++ r.1, r.2)

/-- `build_row_vec(y)` for one of the two tables (R195), with its scalar tail (R196). -/
def vecRow (L : Nat) (lane : Lanes L Byte → Lanes L Word) (unit : Byte → Word) (cell : Nat → Byte) (w y : Nat)
    (above : Nat → Word) : List Word :=
  let r := rowGroups (fun x => lane (laneLoad L cell (y * w + x))) above (w / L) 0 0
  r.1 ++ scanRow (fun x => unit (cell (y * w + x))) above (w % L) (L * (w / L)) r.2

/-- R195: the whole table by the vectorised path. -/
def vecTable (L : Nat) (lane : Lanes L Byte → Lanes L Word) (unit : Byte → Word) (cell : Nat → Byte) (w h : Nat) :
    List Word :=
  buildRows w (fun y above => vecRow L lane unit cell w y above) h 0 []

end Sys2Proof.Machine
end

