-- ==== Sys2Proof/Machine/Lifecycle.lean ====
section
/-! DEFINITION. NOP, BUILD and CLEAR: acceptance (the `exec…` definitions) and completion (the `complete…` definitions)
(45_control.md R260 to R263; 43_construction.md R190 to R198). -/

namespace Sys2Proof.Machine

/-- NOP's acceptance (R260, R263). -/
def execNop (s : State) : Host.Outcome State Fault Refusal :=
  .next (acceptCommand (commandWord .nop) (fun _ => none) id s)

/-- NOP's completion does nothing of its own (R263). -/
def completeNop (s : State) : State := s

/-- BUILD's own acceptance checks, in the order of R191; the product is exact. -/
def buildCheck (s : State) : Option (FaultCode × Word) :=
  let w := asI32 s.ops.xwidth
  let h := asI32 s.ops.yheight
  if w ≤ 0 ∨ h ≤ 0 then some (.badDim, commandWord .build)
  else if w * h > Config.maxCells then some (.size, commandWord .build)
  else match firstUnwritten s (w * h).toNat 0 with
    | some i => some (.srcUnwritten, BitVec.ofNat 32 i)
    | none => none

/-- BUILD's latching (R192). Until completion SUM and NZ are unspecified. -/
def startBuild (s : State) : State :=
  { dropTables s with
    tabW := (asI32 s.ops.xwidth).toNat
    tabH := (asI32 s.ops.yheight).toNat
    engine := .building }

/-- BUILD's acceptance (R190 to R192, R260). -/
def execBuild (s : State) : Host.Outcome State Fault Refusal :=
  .next (acceptCommand (commandWord .build)
    (fun s => (needNoTables (commandWord .build) s).or (buildCheck s)) startBuild s)

/-- BUILD's completion: both tables by the scalar recurrence, cells `[0, N)` (R193, R198). -/
def completeBuild (s : State) : State :=
  { s with
    sum := Memory.ofListFrom 0 (scalarTable pixelValue (srcCell s) s.tabW s.tabH)
    nz := Memory.ofListFrom 0 (scalarTable pixelNonZero (srcCell s) s.tabW s.tabH)
    engine := .ready }

/-- CLEAR's acceptance (R260, R262). -/
def execClear (s : State) : Host.Outcome State Fault Refusal :=
  .next (acceptCommand (commandWord .clear) (fun _ => none) id s)

/-- CLEAR's completion (R262): VALID clear, the memories unspecified, W and H undefined (free values), EMPTY. -/
def completeClear (s : State) : State :=
  { dropTables s with
    src := []
    tabW := Config.undefinedWidth s.era
    tabH := Config.undefinedHeight s.era
    engine := .empty }

end Sys2Proof.Machine
end

