-- ==== Sys2Proof/Machine/Float.lean ====
section
/-! DEFINITION. The binary64 arithmetic of the averages (00_scope.md R17): conversion of an integer and division, each
rounded once to nearest, ties to even. IEEE 754 itself is general knowledge (93_implementation_defined.md G1). Only
non-negative values occur (44_query.md R223, R225). -/

namespace Sys2Proof.Machine

/-- A non-negative finite binary64 value, `sig * 2^exp`. A rounded value has `sig < 2^53` and `exp ≥ -1074`, and
`sig ≥ 2^52` unless `exp = -1074`. -/
structure F64 where
  sig : Nat
  exp : Int
  deriving DecidableEq, Repr

/-- The ratio `num / (den * 2^e)` as a fraction of naturals. -/
def scaleRatio (num den : Nat) (e : Int) : Nat × Nat :=
  if 0 ≤ e then (num, den * 2 ^ e.toNat) else (num * 2 ^ (-e).toNat, den)

/-- `n / d` rounded to a natural, to nearest, ties to even. -/
def divNearestEven (n d : Nat) : Nat :=
  if d < 2 * (n % d) || (2 * (n % d) == d && n / d % 2 == 1) then n / d + 1 else n / d

/-- The exponent of the last place of `num / den` in binary64: the least `e ≥ -1074` with `num / den < 2^(e + 53)`. -/
def ulpExponent (num den : Nat) : Int :=
  let e : Int := (num.log2 : Int) - (den.log2 : Int) - 53
  let r := scaleRatio num den e
  max (if r.1 < 2 ^ 53 * r.2 then e else e + 1) (-1074)

/-- The binary64 value nearest to `num / den` (`den > 0`), ties to even: one rounding of the exact ratio. -/
def roundF64 (num den : Nat) : F64 :=
  if num = 0 then { sig := 0, exp := -1074 }
  else
    let e := ulpExponent num den
    let r := scaleRatio num den e
    let q := divNearestEven r.1 r.2
    if q = 2 ^ 53 then { sig := 2 ^ 52, exp := e + 1 } else { sig := q, exp := e }

/-- `f64(n)` (R17). -/
def f64OfNat (n : Nat) : F64 := roundF64 n 1

/-- `f64_div(a, b)` (R17) for `b > 0`: the exact ratio of the two values, rounded once. -/
def f64Div (a b : F64) : F64 :=
  let r := scaleRatio a.sig b.sig (b.exp - a.exp)
  roundF64 r.1 r.2

/-- `bits64(f)` (R17): sign 0, the biased exponent in [62:52], the fraction in [51:0]. A magnitude above the largest
finite binary64 is encoded as infinity, which no command produces (R223). -/
def bits64 (f : F64) : Bits64 :=
  if f.sig < 2 ^ 52 then BitVec.ofNat 64 f.sig
  else if 971 < f.exp then 0x7FF0000000000000
  else BitVec.ofNat 64 ((f.exp + 1075).toNat * 2 ^ 52 + (f.sig - 2 ^ 52))

end Sys2Proof.Machine
end

