-- ==== Sys2Proof/Machine/Query.lean ====
section
/-! DEFINITION. The SAT query engine: QSUM, QAVG, QNZC, QNZAVG, TRD_SUM, TRD_NZ, acceptance (`exec…`) and completion
(`complete…`) (44_query.md R220 to R227). -/

namespace Sys2Proof.Machine

/-- The clamped rectangle `c` of the latched query (R220). -/
def clampedQuery (s : State) : Rect := clampRect s.tabW s.tabH (queryRect s)

/-- Inclusion–exclusion over a table of `w` columns and a clamped rectangle, modulo 2^32 (R221). -/
def satRect (cell : Nat → Word) (w : Nat) (c : Rect) : Word :=
  let a := cell (cellIndex w c.x1 c.y1)
  let b := if c.x0 > 0 ∧ c.y0 > 0 then cell (cellIndex w (c.x0 - 1) (c.y0 - 1)) else 0
  let above := if c.y0 > 0 then cell (cellIndex w c.x1 (c.y0 - 1)) else 0
  let left := if c.x0 > 0 then cell (cellIndex w (c.x0 - 1) c.y1) else 0
  a + b - above - left

/-- The sum over the clamped query rectangle (R222). -/
def querySum (s : State) : Word := satRect (sumCell s) s.tabW (clampedQuery s)

/-- The non-zero count over the clamped query rectangle (R224). -/
def queryCount (s : State) : Word := satRect (nzCell s) s.tabW (clampedQuery s)

/-- R223: the clamped sum over the exact area of the ORIGINAL, unclamped query. -/
def queryAverage (s : State) : Bits64 :=
  bits64 (f64Div (f64OfNat (querySum s).toNat) (f64OfNat (getWidth (queryRect s) * getHeight (queryRect s))))

/-- R225: the clamped sum over the clamped count, +0.0 where the count is 0. -/
def queryNzAverage (s : State) : Bits64 :=
  if queryCount s = 0 then 0
  else bits64 (f64Div (f64OfNat (querySum s).toNat) (f64OfNat (queryCount s).toNat))

/-- Write RES_U32 (R46). -/
def writeU32 (v : Word) (s : State) : State := { s with res := { s.res with u32 := v } }

/-- Write both halves of RES_F64: bits [31:0] to LO, [63:32] to HI (R47, R86). -/
def writeF64 (v : Bits64) (s : State) : State :=
  { s with res := { s.res with f64Lo := v.extractLsb' 0 32, f64Hi := v.extractLsb' 32 32 } }

/-- Write the RECT registers (R48, R220). -/
def writeRect (c : Rect) (s : State) : State :=
  { s with res := { s.res with
      rectX0 := asU32 c.x0
      rectY0 := asU32 c.y0
      rectX1 := asU32 c.x1
      rectY1 := asU32 c.y1 } }

/-- QSUM's acceptance (R220, R260). -/
def execQsum (s : State) : Host.Outcome State Fault Refusal :=
  .next (acceptCommand (commandWord .qsum) (needTables (commandWord .qsum)) id s)

/-- QSUM's completion (R222). -/
def completeQsum (s : State) : State :=
  writeRect (clampedQuery s) (writeU32 (querySum s) s)

/-- QAVG's acceptance (R220, R260). -/
def execQavg (s : State) : Host.Outcome State Fault Refusal :=
  .next (acceptCommand (commandWord .qavg) (needTables (commandWord .qavg)) id s)

/-- QAVG's completion (R223). -/
def completeQavg (s : State) : State :=
  writeRect (clampedQuery s) (writeF64 (queryAverage s) (writeU32 (querySum s) s))

/-- QNZC's acceptance (R220, R260). -/
def execQnzc (s : State) : Host.Outcome State Fault Refusal :=
  .next (acceptCommand (commandWord .qnzc) (needTables (commandWord .qnzc)) id s)

/-- QNZC's completion (R224). -/
def completeQnzc (s : State) : State :=
  writeRect (clampedQuery s) (writeU32 (queryCount s) s)

/-- QNZAVG's acceptance (R220, R260). -/
def execQnzavg (s : State) : Host.Outcome State Fault Refusal :=
  .next (acceptCommand (commandWord .qnzavg) (needTables (commandWord .qnzavg)) id s)

/-- QNZAVG's completion (R225). -/
def completeQnzavg (s : State) : State :=
  writeRect (clampedQuery s) (writeF64 (queryNzAverage s) (writeU32 (queryCount s) s))

/-- R226: the coordinates of a table read are inside the table; they are not clamped. -/
def indexCheck (word : Word) (s : State) : Option (FaultCode × Word) :=
  let x := asI32 s.ops.qX0
  let y := asI32 s.ops.qY0
  if 0 ≤ x ∧ x ≤ (s.tabW : Int) - 1 ∧ 0 ≤ y ∧ y ≤ (s.tabH : Int) - 1 then none else some (.index, word)

/-- The index a latched table read reads (R226). -/
def tableReadIndex (s : State) : Nat := cellIndex s.tabW (asI32 s.lat.x0) (asI32 s.lat.y0)

/-- TRD_SUM's acceptance (R226, R260). -/
def execTrdSum (s : State) : Host.Outcome State Fault Refusal :=
  .next (acceptCommand (commandWord .trdSum)
    (fun s => (needTables (commandWord .trdSum) s).or (indexCheck (commandWord .trdSum) s)) id s)

/-- TRD_SUM's completion (R226). -/
def completeTrdSum (s : State) : State := writeU32 (sumCell s (tableReadIndex s)) s

/-- TRD_NZ's acceptance (R227, R260). -/
def execTrdNz (s : State) : Host.Outcome State Fault Refusal :=
  .next (acceptCommand (commandWord .trdNz)
    (fun s => (needTables (commandWord .trdNz) s).or (indexCheck (commandWord .trdNz) s)) id s)

/-- TRD_NZ's completion (R227). -/
def completeTrdNz (s : State) : State := writeU32 (nzCell s (tableReadIndex s)) s

end Sys2Proof.Machine
end

