-- ==== Sys2Proof/Machine/RegWrite.lean ====
section
/-! DEFINITION. The register writes (45_control.md R264 to R271) and the writes to read-only or reserved offsets (R273). -/

namespace Sys2Proof.Machine

/-- R270: bit 0 resets the block and bit 1 is then ignored; otherwise bit 1 is the new IE. Legal in every state. -/
def execWrCtrl (data : Word) (s : State) : Host.Outcome State Fault Refusal :=
  .next (if data.getLsbD 0 then resetBlock s else { s with ie := data.getLsbD 1 })

/-- R271: bit 1 clears DONE; every other bit is ignored. Legal in every state. -/
def execWrStatus (data : Word) (s : State) : Host.Outcome State Fault Refusal :=
  .next (if data.getLsbD 1 then { s with done := false } else s)

/-- R264. -/
def execWrXwidth (data : Word) (s : State) : Host.Outcome State Fault Refusal :=
  .next (unlessFaulted (unlessBusy 0x014 (unlessReady 0x014
    (setOperands fun r => { r with xwidth := data }))) s)

/-- R264. -/
def execWrYheight (data : Word) (s : State) : Host.Outcome State Fault Refusal :=
  .next (unlessFaulted (unlessBusy 0x018 (unlessReady 0x018
    (setOperands fun r => { r with yheight := data }))) s)

/-- R265. -/
def execWrSrcAddr (data : Word) (s : State) : Host.Outcome State Fault Refusal :=
  .next (unlessFaulted (unlessBusy 0x01C fun s => { s with srcAddr := data }) s)

/-- The store of SRC_DATA8 (R266). -/
def storeData8 (data : Word) (s : State) : State :=
  let i := s.srcAddr.toNat
  if i ≥ Config.maxCells then raiseFault .srcRange s.srcAddr s
  else { storePixel i (dataByte data 0) s with srcAddr := s.srcAddr + 1 }

/-- R266. -/
def execWrSrcData8 (data : Word) (s : State) : Host.Outcome State Fault Refusal :=
  .next (unlessFaulted (unlessBusy 0x020 (unlessReady 0x020 (storeData8 data))) s)

/-- The store of SRC_DATA32: all four pixels or none (R267), lowest byte at the lowest index (R86). -/
def storeData32 (data : Word) (s : State) : State :=
  let i := s.srcAddr.toNat
  if i + 4 > Config.maxCells then raiseFault .srcRange s.srcAddr s
  else
    { storePixel (i + 3) (dataByte data 3)
        (storePixel (i + 2) (dataByte data 2)
          (storePixel (i + 1) (dataByte data 1) (storePixel i (dataByte data 0) s))) with
      srcAddr := s.srcAddr + 4 }

/-- R267. -/
def execWrSrcData32 (data : Word) (s : State) : Host.Outcome State Fault Refusal :=
  .next (unlessFaulted (unlessBusy 0x024 (unlessReady 0x024 (storeData32 data))) s)

/-- R268. -/
def execWrQX0 (data : Word) (s : State) : Host.Outcome State Fault Refusal :=
  .next (unlessFaulted (setOperands fun r => { r with qX0 := data }) s)

/-- R268. -/
def execWrQY0 (data : Word) (s : State) : Host.Outcome State Fault Refusal :=
  .next (unlessFaulted (setOperands fun r => { r with qY0 := data }) s)

/-- R268. -/
def execWrQX1 (data : Word) (s : State) : Host.Outcome State Fault Refusal :=
  .next (unlessFaulted (setOperands fun r => { r with qX1 := data }) s)

/-- R268. -/
def execWrQY1 (data : Word) (s : State) : Host.Outcome State Fault Refusal :=
  .next (unlessFaulted (setOperands fun r => { r with qY1 := data }) s)

/-- R269. -/
def execWrSpanAddr (data : Word) (s : State) : Host.Outcome State Fault Refusal :=
  .next (unlessFaulted (setOperands fun r => { r with spanAddr := data }) s)

/-- R269. -/
def execWrSpanLen (data : Word) (s : State) : Host.Outcome State Fault Refusal :=
  .next (unlessFaulted (setOperands fun r => { r with spanLen := data }) s)

/-- R273, R312: the write raises FAULT_BUS with the offset, or is ignored in FAULTED. The data has no effect. -/
def execWrRoOrReserved (off : Offset) (_data : Word) (s : State) : Host.Outcome State Fault Refusal :=
  .next (unlessFaulted (raiseFault .bus (off.setWidth 32)) s)

end Sys2Proof.Machine
end

