-- ==== Sys2Proof/Machine/Span.lean ====
section
/-! DEFINITION. SPAN_SUM and SPAN_NZC: acceptance (`exec…`) and completion (`complete…`) (42_lane_primitives.md R170, R172,
R173). -/

namespace Sys2Proof.Machine

/-- `span_sum(a, n)` (R170). -/
def spanSum (s : State) (a n : Nat) : Word := sumRange (fun i => pixelValue (srcCell s i)) n a

/-- `span_nzc(a, n)` (R170). -/
def spanNzc (s : State) (a n : Nat) : Word := sumRange (fun i => pixelNonZero (srcCell s i)) n a

/-- The span commands' acceptance checks, in the order of R172; the range is compared exactly. -/
def spanCheck (word : Word) (s : State) : Option (FaultCode × Word) :=
  let a := s.ops.spanAddr.toNat
  let n := s.ops.spanLen.toNat
  if a + n > Config.maxCells then some (.spanRange, word)
  else match firstUnwritten s n a with
    | some i => some (.srcUnwritten, BitVec.ofNat 32 i)
    | none => none

/-- SPAN_SUM's acceptance (R172, R260). -/
def execSpanSum (s : State) : Host.Outcome State Fault Refusal :=
  .next (acceptCommand (commandWord .spanSum) (spanCheck (commandWord .spanSum)) id s)

/-- SPAN_SUM's completion (R172). -/
def completeSpanSum (s : State) : State := writeU32 (spanSum s (spanStart s) (spanCount s)) s

/-- SPAN_NZC's acceptance (R173, R260). -/
def execSpanNzc (s : State) : Host.Outcome State Fault Refusal :=
  .next (acceptCommand (commandWord .spanNzc) (spanCheck (commandWord .spanNzc)) id s)

/-- SPAN_NZC's completion (R173). -/
def completeSpanNzc (s : State) : State := writeU32 (spanNzc s (spanStart s) (spanCount s)) s

end Sys2Proof.Machine
end

