-- ==== Sys2Proof/Machine/Dispatch.lean ====
section
/-! DEFINITION. One arm per row of spec/opcode_table.json: the meaning of a well-formed operation of the HOST. -/

namespace Sys2Proof.Machine

def exec (i : Instr) (s : State) : Host.Outcome State Fault Refusal :=
  match i with
  | .nop => Sys2Proof.Machine.execNop s
  | .build => Sys2Proof.Machine.execBuild s
  | .clear => Sys2Proof.Machine.execClear s
  | .qsum => Sys2Proof.Machine.execQsum s
  | .qavg => Sys2Proof.Machine.execQavg s
  | .qnzc => Sys2Proof.Machine.execQnzc s
  | .qnzavg => Sys2Proof.Machine.execQnzavg s
  | .trdSum => Sys2Proof.Machine.execTrdSum s
  | .trdNz => Sys2Proof.Machine.execTrdNz s
  | .spanSum => Sys2Proof.Machine.execSpanSum s
  | .spanNzc => Sys2Proof.Machine.execSpanNzc s
  | .wrCtrl data => Sys2Proof.Machine.execWrCtrl data s
  | .wrStatus data => Sys2Proof.Machine.execWrStatus data s
  | .wrXwidth data => Sys2Proof.Machine.execWrXwidth data s
  | .wrYheight data => Sys2Proof.Machine.execWrYheight data s
  | .wrSrcAddr data => Sys2Proof.Machine.execWrSrcAddr data s
  | .wrSrcData8 data => Sys2Proof.Machine.execWrSrcData8 data s
  | .wrSrcData32 data => Sys2Proof.Machine.execWrSrcData32 data s
  | .wrQX0 data => Sys2Proof.Machine.execWrQX0 data s
  | .wrQY0 data => Sys2Proof.Machine.execWrQY0 data s
  | .wrQX1 data => Sys2Proof.Machine.execWrQX1 data s
  | .wrQY1 data => Sys2Proof.Machine.execWrQY1 data s
  | .wrSpanAddr data => Sys2Proof.Machine.execWrSpanAddr data s
  | .wrSpanLen data => Sys2Proof.Machine.execWrSpanLen data s
  | .wrRoOrReserved off data => Sys2Proof.Machine.execWrRoOrReserved off data s
  | .busMalformed dir off size => Sys2Proof.Machine.execBusMalformed dir off size s
  | .rd off => Sys2Proof.Machine.execRd off s

end Sys2Proof.Machine
end

