-- ==== Sys2Proof/Machine/Agents.lean ====
section
/-! DEFINITION. The two agents (00_scope.md R12): the ENGINE's completion step (45_control.md R261), the HOST's
transaction (R110), the reset input (70_reset_and_hazards.md R340), and which of them moves next (20_memory.md R94). -/

namespace Sys2Proof.Machine

/-- The completion pseudocode of the pending command (R261). -/
def completeCommand (c : Command) (s : State) : State :=
  match c with
  | .nop => completeNop s
  | .build => completeBuild s
  | .clear => completeClear s
  | .qsum => completeQsum s
  | .qavg => completeQavg s
  | .qnzc => completeQnzc s
  | .qnzavg => completeQnzavg s
  | .trdSum => completeTrdSum s
  | .trdNz => completeTrdNz s
  | .spanSum => completeSpanSum s
  | .spanNzc => completeSpanNzc s

/-- R261: the completion step is enabled (and, R340, never while RST is held). -/
def engineEnabled (s : State) : Bool := s.busy && s.engine != .faulted && !s.host.rst

/-- The command that `lat.CMD[7:0]` selects (R261). -/
def pendingCommand (s : State) : Option Command := opcodeCommand (s.lat.cmd.setWidth 8)

/-- The ENGINE's turn: the completion step if enabled, else nothing (R261, R327). -/
def engineTurn (s : State) : Host.Outcome State Fault Refusal :=
  if engineEnabled s then
    match pendingCommand s with
    | some c => .next (finishCommand (completeCommand c s))
    | none => .fault .undefinedLatchedCommand
  else .next s

/-- A host access while RST is held is ignored; a read returns 0 (R340). -/
def ignoredAccess (t : BusTxn) (s : State) : State :=
  match t with
  | .read _ _ => returnRead 0 s
  | .write _ _ _ => s

/-- The HOST's turn: decode the transaction and perform it in one atomic step (R90, R94, R97). -/
def hostTurn (t : BusTxn) (s : State) : Host.Outcome State Fault Refusal :=
  if s.host.rst then .next (ignoredAccess t s)
  else match decode t with
    | .ok i => exec i s
    | .error (.illegalCommand word) => .next (acceptIllegal word s)

/-- Drive the reset input (R340). -/
def setRst (level : Bool) (s : State) : State := { s with host := { s.host with rst := level } }

/-- The platform releases RST: the reset step takes place once, if it was held (R340). -/
def releaseRst (s : State) : State := if s.host.rst then setRst false (resetBlock s) else s

/-- One step of the interleaving (R94). -/
def takeInput (e : Input) (s : State) : Host.Outcome State Fault Refusal :=
  match e with
  | .access t => hostTurn t s
  | .engine => engineTurn s
  | .rstAssert => .next (setRst true s)
  | .rstRelease => .next (releaseRst s)

/-- The next step: the first input of the script, or, when there is none, the ENGINE, so that a pending command
completes (R261, R357, R359). -/
def nextStep (s : State) : Host.Outcome State Fault Refusal :=
  match s.host.script with
  | [] => engineTurn s
  | e :: rest => takeInput e { s with host := { s.host with script := rest } }

/-- The script whose first input is the transaction `t`, with RST not held. -/
def scheduleAccess (t : BusTxn) (s : State) : State :=
  { s with host := { s.host with script := .access t :: s.host.script, rst := false } }

end Sys2Proof.Machine
end

