-- ==== Sys2Proof/Machine/Step.lean ====
section
/-! DEFINITION. The step, and the placing of an opcode-table word where the step takes its next transaction. -/

namespace Sys2Proof.Machine

/-- One atomic step of one agent (20_memory.md R94). -/
def step (s : State) : Host.Outcome State Fault Refusal := nextStep s

/-- `s` with the transaction of an opcode-table word as the next input. notes/assumptions/1.md. -/
def State.withFetchWord (s : State) (nbits w : Nat) : State := scheduleAccess (tableTxn nbits w) s

end Sys2Proof.Machine
end

