-- ==== Sys2Proof/Laws/Decode.lean ====
section
/-! SUPPORT. The laws of the command-word decoder (30_encoding.md R113, R114, R118). -/

namespace Sys2Proof

/-- The opcode map read backwards: the opcode of a command is the low byte of its word. -/
theorem opcodeCommand_eq_some {op : BitVec 8} {c : Command} (h : opcodeCommand op = some c) :
    op = (commandWord c).setWidth 8 := by
  simp only [opcodeCommand, opcodeTable, List.lookup] at h
  repeat' (split at h)
  all_goals first | (cases h; simp_all [commandWord]) | cases h

@[simp] theorem opcodeCommand_commandWord (c : Command) : opcodeCommand ((commandWord c).setWidth 8) = some c := by
  cases c <;> rfl

/-- R114, R118: a word decodes to a command exactly when it is that command's word. -/
theorem decodeCommand_eq_some_iff {w : Word} {c : Command} : decodeCommand w = some c ↔ w = commandWord c := by
  constructor
  · intro h
    simp only [decodeCommand] at h
    split at h
    · rename_i hr
      have h8 := opcodeCommand_eq_some h
      have hr' : w.toNat / 256 % 2 ^ 24 = 0 := by
        have := congrArg BitVec.toNat hr
        simpa [BitVec.extractLsb'_toNat, Nat.shiftRight_eq_div_pow] using this
      have h8' : w.toNat % 256 = (commandWord c).toNat % 256 := by
        have := congrArg BitVec.toNat h8
        simpa [BitVec.toNat_setWidth] using this
      have hc : (commandWord c).toNat < 256 := by cases c <;> decide
      apply BitVec.eq_of_toNat_eq
      have := w.isLt
      omega
    · cases h
  · rintro rfl
    cases c <;> rfl

theorem decodeCommand_eq_none_iff {w : Word} : decodeCommand w = none ↔ ∀ c, w ≠ commandWord c := by
  constructor
  · intro h c hw
    rw [decodeCommand_eq_some_iff.mpr hw] at h
    cases h
  · intro h
    cases hd : decodeCommand w with
    | none => rfl
    | some c => exact absurd (decodeCommand_eq_some_iff.mp hd) (h c)

/-- A write to CMD (R42, R110): the command of its word, or the refusal R118 names. -/
theorem decode_cmdWrite (w : Word) :
    decode (.write cmdOffset 4 w) =
      match decodeCommand w with
      | some c => .ok c.instr
      | none => .error (.illegalCommand w) := rfl

/-- What a table lookup answers: a row of the table, or nothing where no row has the key. -/
theorem lookup_cases {α β : Type} [DecidableEq α] (l : List (α × β)) (k : α) :
    (∃ v, l.lookup k = some v ∧ (k, v) ∈ l) ∨ (l.lookup k = none ∧ ∀ p ∈ l, k ≠ p.1) := by
  induction l with
  | nil => exact .inr ⟨rfl, by simp⟩
  | cons p l ih =>
    obtain ⟨j, v⟩ := p
    by_cases h : k = j
    · subst h; exact .inl ⟨v, by simp [List.lookup], by simp⟩
    · have hl : ((j, v) :: l).lookup k = l.lookup k := by
        have : (k == j) = false := by simp [h]
        simp [List.lookup, this]
      rcases ih with ⟨u, h1, h2⟩ | ⟨h1, h2⟩
      · exact .inl ⟨u, by rw [hl, h1], List.mem_cons_of_mem _ h2⟩
      · exact .inr ⟨by rw [hl, h1], List.forall_mem_cons.mpr ⟨h, h2⟩⟩

/-- R111, read row by row: a write's operation is the row of its offset, or the write is to no such offset. -/
theorem decodeWrite_cases (off : Offset) (data : Word) :
    (off, decodeWrite off data) ∈ writeOperations data ∨
    (decodeWrite off data = .wrRoOrReserved off data ∧ ∀ p ∈ writeOperations data, off ≠ p.1) := by
  rcases lookup_cases (writeOperations data) off with ⟨v, h1, h2⟩ | ⟨h1, h2⟩
  · exact .inl (by simpa [decodeWrite, h1] using h2)
  · exact .inr ⟨by simp [decodeWrite, h1], h2⟩

/-- R111, R312: an aligned offset that no row of R111 gives an operation, and that is not CMD, is read-only or
reserved. -/
theorem readOnly_or_reserved {off : Offset} {data : Word} (h4 : off.toNat % 4 = 0) (hcmd : off ≠ cmdOffset)
    (h : ∀ p ∈ writeOperations data, off ≠ p.1) : readOnlyOffset off = true ∨ reservedOffset off = true := by
  simp only [writeOperations, List.forall_mem_cons] at h
  obtain ⟨h1, h2, h3, h4', h5, h6, h7, h8, h9, h10, h11, h12, h13, -⟩ := h
  have key : ∀ k : Offset, off ≠ k → off.toNat ≠ k.toNat := fun k hk hn => hk (BitVec.eq_of_toNat_eq hn)
  have e1 : off.toNat ≠ 8 := key _ h1
  have e2 : off.toNat ≠ 12 := key _ h2
  have e3 : off.toNat ≠ 20 := key _ h3
  have e4 : off.toNat ≠ 24 := key _ h4'
  have e5 : off.toNat ≠ 28 := key _ h5
  have e6 : off.toNat ≠ 32 := key _ h6
  have e7 : off.toNat ≠ 36 := key _ h7
  have e8 : off.toNat ≠ 44 := key _ h8
  have e9 : off.toNat ≠ 48 := key _ h9
  have e10 : off.toNat ≠ 52 := key _ h10
  have e11 : off.toNat ≠ 56 := key _ h11
  have e12 : off.toNat ≠ 60 := key _ h12
  have e13 : off.toNat ≠ 64 := key _ h13
  have e14 : off.toNat ≠ 40 := key _ hcmd
  have cases : off.toNat = 0 ∨ off.toNat = 4 ∨ off.toNat = 16 ∨ (68 ≤ off.toNat ∧ off.toNat ≤ 92) ∨ 96 ≤ off.toNat := by
    omega
  rcases cases with h | h | h | h | h
  · exact .inl (by rw [show off = 0 from BitVec.eq_of_toNat_eq h]; rfl)
  · exact .inl (by rw [show off = 4 from BitVec.eq_of_toNat_eq h]; rfl)
  · exact .inl (by rw [show off = 16 from BitVec.eq_of_toNat_eq h]; rfl)
  · exact .inl (by simp [readOnlyOffset, h])
  · exact .inr (by simp [reservedOffset, h])

/-- Every operation the decoder answers is well formed. -/
theorem wellFormed_of_decode {t : BusTxn} {i : Instr} (h : decode t = .ok i) : i.wellFormed = true := by
  cases t with
  | read off size =>
    simp only [decode] at h
    split at h
    · rename_i hm; cases h; exact hm
    · rename_i hm
      cases h
      have : size = 4 := by simp [malformed] at hm; exact hm.1
      subst this
      simpa [Instr.wellFormed] using hm
  | write off size data =>
    simp only [decode] at h
    split at h
    · rename_i hm; cases h; exact hm
    · rename_i hm
      split at h
      · split at h
        · rename_i c _; cases h; cases c <;> rfl
        · cases h
      · rename_i hcmd
        have hi : decodeWrite off data = i := by injection h
        subst hi
        have hm' : size = 4 ∧ off.toNat % 4 = 0 := by simpa [malformed] using hm
        rcases decodeWrite_cases off data with hmem | ⟨he, hne⟩
        · simp only [writeOperations, List.mem_cons, Prod.mk.injEq, List.not_mem_nil, or_false] at hmem
          rcases hmem with h | h | h | h | h | h | h | h | h | h | h | h | h <;> (rw [h.2]; rfl)
        · rw [he]
          simpa [Instr.wellFormed, malformed, hm'.2] using readOnly_or_reserved hm'.2 hcmd hne

end Sys2Proof
end

