-- ==== Sys2Proof/Laws/PerInstr.lean ====
section
/-! SUPPORT. Facts about instructions as syntax, one lemma per constructor of Instr. -/

namespace Sys2Proof.Laws.RoundTrip

/-- Decoding the encoding of a well-formed operation gives it back. -/
def Statement (i : Instr) : Prop := i.wellFormed = true → decode (encode i) = .ok i

theorem nop : Statement .nop := fun _ => rfl
theorem build : Statement .build := fun _ => rfl
theorem clear : Statement .clear := fun _ => rfl
theorem qsum : Statement .qsum := fun _ => rfl
theorem qavg : Statement .qavg := fun _ => rfl
theorem qnzc : Statement .qnzc := fun _ => rfl
theorem qnzavg : Statement .qnzavg := fun _ => rfl
theorem trdSum : Statement .trdSum := fun _ => rfl
theorem trdNz : Statement .trdNz := fun _ => rfl
theorem spanSum : Statement .spanSum := fun _ => rfl
theorem spanNzc : Statement .spanNzc := fun _ => rfl
theorem wrCtrl (data : Word) : Statement (.wrCtrl data) := fun _ => rfl
theorem wrStatus (data : Word) : Statement (.wrStatus data) := fun _ => rfl
theorem wrXwidth (data : Word) : Statement (.wrXwidth data) := fun _ => rfl
theorem wrYheight (data : Word) : Statement (.wrYheight data) := fun _ => rfl
theorem wrSrcAddr (data : Word) : Statement (.wrSrcAddr data) := fun _ => rfl
theorem wrSrcData8 (data : Word) : Statement (.wrSrcData8 data) := fun _ => rfl
theorem wrSrcData32 (data : Word) : Statement (.wrSrcData32 data) := fun _ => rfl
theorem wrQX0 (data : Word) : Statement (.wrQX0 data) := fun _ => rfl
theorem wrQY0 (data : Word) : Statement (.wrQY0 data) := fun _ => rfl
theorem wrQX1 (data : Word) : Statement (.wrQX1 data) := fun _ => rfl
theorem wrQY1 (data : Word) : Statement (.wrQY1 data) := fun _ => rfl
theorem wrSpanAddr (data : Word) : Statement (.wrSpanAddr data) := fun _ => rfl
theorem wrSpanLen (data : Word) : Statement (.wrSpanLen data) := fun _ => rfl

/-- No offset that R111 gives an operation is read-only or reserved. -/
theorem wrRoOrReserved (off : Offset) (data : Word) : Statement (.wrRoOrReserved off data) := by
  intro h
  simp only [Instr.wellFormed, Bool.and_eq_true, Bool.not_eq_true', Bool.or_eq_true] at h
  obtain ⟨hm, hr⟩ := h
  have hcmd : off ≠ cmdOffset := by rintro rfl; revert hr; decide
  rcases decodeWrite_cases off data with hmem | ⟨he, -⟩
  · simp only [writeOperations, List.mem_cons, Prod.mk.injEq, List.not_mem_nil, or_false] at hmem
    rcases hmem with h | h | h | h | h | h | h | h | h | h | h | h | h <;> (rw [h.1] at hr; exact absurd hr (by decide))
  · simp [encode, decode, hm, hcmd, he]

theorem busMalformed (dir : Dir) (off : Offset) (size : Nat) : Statement (.busMalformed dir off size) := by
  intro h
  cases dir <;> simp_all [Instr.wellFormed, encode, decode]

theorem rd (off : Offset) : Statement (.rd off) := by
  intro h
  simp_all [Instr.wellFormed, encode, decode]

end Sys2Proof.Laws.RoundTrip
end

