-- ==== Sys2Proof/Safety.lean ====
section
/-! DEFINITION. What claims are stated in terms of: the invariant of the block, the state a reset leaves, the reference
results that queries are compared with (44_query.md R230; 43_construction.md R194) and the values of binary64
encodings. -/

namespace Sys2Proof

/-- The queries and table reads, which need built tables (R115). -/
def Command.needsTables : Command → Bool
  | .qsum | .qavg | .qnzc | .qnzavg | .trdSum | .trdNz => true
  | .nop | .build | .clear | .spanSum | .spanNzc => false

/-- The table reads (R226, R227). -/
def Command.readsCell : Command → Bool
  | .trdSum | .trdNz => true
  | .nop | .build | .clear | .qsum | .qavg | .qnzc | .qnzavg | .spanSum | .spanNzc => false

/-- The span commands (R172, R173). -/
def Command.readsSpan : Command → Bool
  | .spanSum | .spanNzc => true
  | .nop | .build | .clear | .qsum | .qavg | .qnzc | .qnzavg | .trdSum | .trdNz => false

namespace Machine

/-- The block can accept a command: EMPTY or READY with BUSY = 0 (R115). -/
def Idle (s : State) : Prop := (s.engine = .empty ∨ s.engine = .ready) ∧ s.busy = false

/-- The ENGINE has command `c` to complete (R57, R261). -/
def Pending (c : Command) (s : State) : Prop :=
  s.busy = true ∧ s.engine ≠ .faulted ∧ s.host.rst = false ∧ s.lat.cmd = commandWord c

/-- The hidden W and H hold the dimensions of XWIDTH and YHEIGHT, legal for BUILD, and every pixel is written (R53,
R191). -/
structure DimsHeld (s : State) : Prop where
  width : (s.tabW : Int) = asI32 s.ops.xwidth
  height : (s.tabH : Int) = asI32 s.ops.yheight
  widthPos : 0 < s.tabW
  heightPos : 0 < s.tabH
  fits : s.tabW * s.tabH ≤ Config.maxCells
  written : ∀ i, i < s.tabW * s.tabH → srcValid s i = true

/-- Both tables are those of the scalar recurrence over the current source (R83, R99, R193). -/
structure TablesBuilt (s : State) : Prop where
  sum : s.sum = Memory.ofListFrom 0 (scalarTable pixelValue (srcCell s) s.tabW s.tabH)
  nz : s.nz = Memory.ofListFrom 0 (scalarTable pixelNonZero (srcCell s) s.tabW s.tabH)

/-- The coordinates of a latched table read are inside the table (R226). -/
def CellInTable (s : State) : Prop :=
  0 ≤ asI32 s.lat.x0 ∧ asI32 s.lat.x0 ≤ (s.tabW : Int) - 1 ∧ 0 ≤ asI32 s.lat.y0 ∧ asI32 s.lat.y0 ≤ (s.tabH : Int) - 1

/-- The latched span lies in SRC and is wholly written (R172). -/
def SpanWritten (s : State) : Prop :=
  spanStart s + spanCount s ≤ Config.maxCells ∧
    ∀ i, spanStart s ≤ i → i < spanStart s + spanCount s → srcValid s i = true

/-- The invariant of the block. -/
structure Invariant (s : State) : Prop where
  srcForm : Memory.wf s.src = true
  sumForm : Memory.wf s.sum = true
  nzForm : Memory.wf s.nz = true
  /-- R260: a pending command is one of the eleven. -/
  busyLegal : s.busy = true → ∃ c, s.lat.cmd = commandWord c
  /-- R30: BUILDING is exactly the time a BUILD is pending. -/
  building : s.engine = .building ↔ s.busy = true ∧ s.lat.cmd = commandWord .build
  /-- R314: nothing is pending in FAULTED. -/
  faultedIdle : s.engine = .faulted → s.busy = false
  /-- R301: a fault code stands exactly in FAULTED. -/
  faultCode : s.engine = .faulted ↔ s.faultCode ≠ .none
  /-- R301. -/
  faultInfo : s.faultCode = .none → s.faultInfo = 0
  dims : s.engine = .building ∨ s.engine = .ready → DimsHeld s
  tables : s.engine = .ready → TablesBuilt s
  pendingTables : ∀ c, s.busy = true → s.lat.cmd = commandWord c → c.needsTables = true → s.engine = .ready
  pendingCell : ∀ c, s.busy = true → s.lat.cmd = commandWord c → c.readsCell = true → CellInTable s
  pendingSpan : ∀ c, s.busy = true → s.lat.cmd = commandWord c → c.readsSpan = true → SpanWritten s

/-- What R341 states of the state after reset: everything but the latches, W, H and the memories' contents. -/
structure AtReset (s : State) : Prop where
  engine : s.engine = .empty
  busy : s.busy = false
  done : s.done = false
  faultCode : s.faultCode = .none
  faultInfo : s.faultInfo = 0
  ie : s.ie = false
  srcAddr : s.srcAddr = 0
  ops : s.ops = { xwidth := 0, yheight := 0, qX0 := 0, qY0 := 0, qX1 := 0, qY1 := 0, spanAddr := 0, spanLen := 0 }
  res : s.res = { u32 := 0, f64Lo := 0, f64Hi := 0, rectX0 := 0, rectY0 := 0, rectX1 := 0, rectY1 := 0 }
  valid : ∀ i, srcValid s i = false

/-! ## Reference results -/

/-- The exact sum of `f` over the cells of a region of a buffer of `w` columns, rescanned cell by cell. -/
def regionSum (w : Nat) (f : Nat → Nat) (x0 y0 x1 y1 : Nat) : Nat :=
  ∑ y ∈ Finset.Icc y0 y1, ∑ x ∈ Finset.Icc x0 x1, f (y * w + x)

/-- The value of a pixel. -/
def pixelNat (s : State) (i : Nat) : Nat := (srcCell s i).toNat

/-- 1 for a non-zero pixel, 0 for a zero one. -/
def nonZeroNat (s : State) (i : Nat) : Nat := if srcCell s i ≠ 0 then 1 else 0

/-- `f` over the clamped query rectangle (R230). -/
def overQuery (s : State) (f : Nat → Nat) : Nat :=
  let c := clampedQuery s
  regionSum s.tabW f c.x0.toNat c.y0.toNat c.x1.toNat c.y1.toNat

/-- `naive_sum(q)` of R230. -/
def naiveSum (s : State) : Nat := overQuery s (pixelNat s)

/-- `naive_nzc(q)` of R230. -/
def naiveCount (s : State) : Nat := overQuery s (nonZeroNat s)

/-! ## Values of binary64 -/

/-- The rational a value of the model's float stands for. -/
def F64.value (f : F64) : ℚ := f.sig * 2 ^ f.exp

/-- The binary64 values: at most 53 significant bits and no finer than 2^-1074. -/
def F64.representable (f : F64) : Prop := f.sig < 2 ^ 53 ∧ -1074 ≤ f.exp

/-- The rational that a finite encoding with sign 0 stands for. -/
def encodedValue (b : Bits64) : ℚ :=
  let e := (b.extractLsb' 52 11).toNat
  let m := (b.extractLsb' 0 52).toNat
  if e = 0 then m * 2 ^ (-1074 : ℤ) else (2 ^ 52 + m) * 2 ^ ((e : ℤ) - 1075)

end Machine

end Sys2Proof
end

