-- ==== Sys2Proof/Certificates/Slice0/Obligations.lean ====
section
/-! DEFINITION. The statements about the model, in the order of OBLIGATIONS.json. Each docstring names the rules of spec/
it formalises. `raiseFault` is the fault entry that `Obligations.FaultEntryEffects` describes; a record update such as
`{ s with busy := true }` also says that every field it does not name is unchanged, every byte of memory among them. -/

open Sys2Proof Sys2Proof.Machine

/-! ## Decoding and the step -/

/-- R94, R110, R260: where the next input is a HOST transaction that decodes to `i`, the step is `exec i` after the
transaction is taken off the script, and `i` is well formed. -/
def Obligations.StepRunsDecodedTransaction : Prop :=
  ∀ (s : State) (t : BusTxn) (rest : List Input) (i : Instr),
    s.host.script = .access t :: rest → s.host.rst = false → decode t = .ok i →
      i.wellFormed = true ∧ step s = exec i { s with host := { s.host with script := rest } }

/-- R12, R94, R261: a HOST input of the script is one HOST transaction; the ENGINE moves when the script says so, and when
the script is empty; where its completion step is not enabled its turn changes nothing. The script, and that the ENGINE
moves when it is empty, are the model's choice (notes/assumptions/5.md). -/
def Obligations.StepGivesAgentsTheirTurns : Prop :=
  ∀ (s : State) (t : BusTxn) (rest : List Input),
    (s.host.script = .access t :: rest → step s = hostTurn t { s with host := { s.host with script := rest } }) ∧
    (s.host.script = [] → step s = engineTurn s) ∧
    (s.host.script = .engine :: rest → step s = engineTurn { s with host := { s.host with script := rest } }) ∧
    (s.busy = false ∨ s.engine = .faulted ∨ s.host.rst = true → engineTurn s = .next s)

/-- R111, R112, R114: words written out from the tables of the spec decode to their operations. -/
def Obligations.SampleTransactionsDecode : Prop :=
  decode (.write 0x028 4 0b00000000000000000000000000000000) = .ok .nop ∧
  decode (.write 0x028 4 0b00000000000000000000000000000001) = .ok .build ∧
  decode (.write 0x028 4 0b00000000000000000000000000010001) = .ok .qavg ∧
  decode (.write 0x028 4 0b00000000000000000000000000100001) = .ok .trdNz ∧
  decode (.write 0x028 4 0b00000000000000000000000000110000) = .ok .spanSum ∧
  decode (.write 0b000000100100 4 0x04030201) = .ok (.wrSrcData32 0x04030201) ∧
  decode (.write 0b000000111000 4 7) = .ok (.wrQY1 7) ∧
  decode (.write 0b000001000100 4 5) = .ok (.wrRoOrReserved 0x044 5) ∧
  decode (.read 0b000000001100 1) = .ok (.busMalformed .read 0x00C 1) ∧
  decode (.read 0b000001000100 4) = .ok (.rd 0x044)

/-- R110 to R114: decoding the encoding of a well-formed operation gives it back, for every operation and operand. -/
def Obligations.DecodeOfEncodeAgrees : Prop :=
  ∀ i : Instr, Sys2Proof.Laws.RoundTrip.Statement i

/-- R110 to R114: each well-formed transaction has one reading, and encoding that reading gives the transaction back. -/
def Obligations.EncodeOfDecodeAgrees : Prop :=
  ∀ (t : BusTxn) (i : Instr), decode t = .ok i → (∀ off size, i ≠ .busMalformed .write off size) → encode i = t

/-- R118: a command word outside the eleven of R114 raises FAULT_ILLEGAL_CMD with the word (FAULT_BUSY comes first while a
command is pending, and FAULTED ignores the write). -/
def Obligations.IllegalCommandWordsFault : Prop :=
  ∀ (s : State) (w : Word), s.host.rst = false →
    w ∉ ([0x00, 0x01, 0x02, 0x10, 0x11, 0x12, 0x13, 0x20, 0x21, 0x30, 0x31] : List Word) →
      (s.engine = .faulted → hostTurn (.write 0x028 4 w) s = .next s) ∧
      (s.engine ≠ .faulted → s.busy = true → hostTurn (.write 0x028 4 w) s = .next (raiseFault .busy 0x028 s)) ∧
      (s.engine ≠ .faulted → s.busy = false → hostTurn (.write 0x028 4 w) s = .next (raiseFault .illegalCmd w s))

/-! ## Reset -/

/-- R341: after reset ID and CAP read their constants, every other offset reads 0, the STATUS word is 0, IRQ is 0 and no
source cell is valid. -/
def Obligations.ResetRegisterValues : Prop :=
  readRegister 0x000 State.reset = 0x50534154 ∧
  readRegister 0x004 State.reset = capWord Config.lanes Config.vecPresent ∧
  (∀ off : Offset, off ≠ 0x000 → off ≠ 0x004 → readRegister off State.reset = 0) ∧
  statusWord State.reset = 0 ∧ irq State.reset = false ∧ AtReset State.reset

/-- R33: CAP = version 1, 24, VEC_PRESENT and LANES, for the two lane counts the spec admits. -/
def Obligations.CapFields : Prop :=
  (Config.lanes = 8 ∨ Config.lanes = 16) ∧
  ∀ (s : State),
    (readRegister 0x004 s).extractLsb' 0 8 = BitVec.ofNat 8 Config.lanes ∧
    (readRegister 0x004 s).getLsbD 8 = Config.vecPresent ∧
    (readRegister 0x004 s).extractLsb' 9 7 = 0 ∧
    (readRegister 0x004 s).extractLsb' 16 8 = 24 ∧
    (readRegister 0x004 s).extractLsb' 24 8 = 1

/-- R270: a write of CTRL with bit 0 set resets the block in any state, a pending command included; otherwise bit 1 is
the new IE and nothing else changes. -/
def Obligations.CtrlWriteResetsOrSetsEnable : Prop :=
  ∀ (s : State) (data : Word),
    (data.getLsbD 0 = true → ∃ t, exec (.wrCtrl data) s = .next t ∧ AtReset t ∧ t.host = s.host ∧ irq t = false) ∧
    (data.getLsbD 0 = false → exec (.wrCtrl data) s = .next { s with ie := data.getLsbD 1 })

/-- R340: while RST is held the ENGINE takes no step and host accesses are ignored, a read returning 0; releasing RST is
one reset step. The script, RST as two of its inputs and the field that takes the word read are the model's choices
(notes/assumptions/5.md, 6.md, 7.md). -/
def Obligations.ResetInputHoldsAndResets : Prop :=
  ∀ (s : State) (rest : List Input),
    let p : State := { s with host := { s.host with script := rest } }
    (s.host.script = .rstAssert :: rest → step s = .next { p with host := { p.host with rst := true } }) ∧
    (s.host.rst = true →
      (∀ off size data, s.host.script = .access (.write off size data) :: rest → step s = .next p) ∧
      (∀ off size, s.host.script = .access (.read off size) :: rest →
        step s = .next { p with host := { p.host with readData := 0 } }) ∧
      (s.host.script = .engine :: rest → step s = .next p) ∧
      (s.host.script = .rstRelease :: rest →
        ∃ t, step s = .next t ∧ AtReset t ∧ t.host = { p.host with rst := false }))

/-! ## The registers as the host sees them -/

/-- R35: the fields of STATUS, in every state, with the numbers of R30 for the engine state and those of R300 for the
fault code. -/
def Obligations.StatusWordFields : Prop :=
  ∀ s : State,
    (statusWord s).getLsbD 0 = s.busy ∧ (statusWord s).getLsbD 1 = s.done ∧
    ((statusWord s).getLsbD 2 = true ↔ s.engine = .faulted) ∧ (statusWord s).getLsbD 3 = false ∧
    (∀ p ∈ ([(.empty, 0), (.building, 1), (.ready, 2), (.faulted, 3)] : List (EngineState × BitVec 2)),
      s.engine = p.1 → (statusWord s).extractLsb' 4 2 = p.2) ∧
    (statusWord s).extractLsb' 6 2 = 0 ∧
    (∀ p ∈ ([(.none, 0x00), (.badDim, 0x01), (.size, 0x02), (.srcUnwritten, 0x03), (.notReady, 0x04),
        (.immutable, 0x05), (.busy, 0x06), (.illegalCmd, 0x07), (.srcRange, 0x08), (.index, 0x09), (.spanRange, 0x0A),
        (.bus, 0x0B)] : List (FaultCode × Byte)),
      s.faultCode = p.1 → (statusWord s).extractLsb' 8 8 = p.2) ∧
    (statusWord s).extractLsb' 16 16 = 0

/-- R112, R274: a read returns the register at the offset (0 at the write-only and reserved offsets) in every state and
changes nothing of the block. The field that takes the word returned is the model's choice (notes/assumptions/7.md). -/
def Obligations.ReadsReturnRegisters : Prop :=
  ∀ (s : State) (off : Offset),
    exec (.rd off) s = .next { s with host := { s.host with readData := readRegister off s } } ∧
    readRegister 0x000 s = 0x50534154 ∧ readRegister 0x004 s = capWord Config.lanes Config.vecPresent ∧
    readRegister 0x008 s = (if s.ie then 2 else 0) ∧
    readRegister 0x00C s = statusWord s ∧ readRegister 0x010 s = s.faultInfo ∧
    readRegister 0x014 s = s.ops.xwidth ∧ readRegister 0x018 s = s.ops.yheight ∧ readRegister 0x01C s = s.srcAddr ∧
    readRegister 0x02C s = s.ops.qX0 ∧ readRegister 0x030 s = s.ops.qY0 ∧ readRegister 0x034 s = s.ops.qX1 ∧
    readRegister 0x038 s = s.ops.qY1 ∧ readRegister 0x03C s = s.ops.spanAddr ∧ readRegister 0x040 s = s.ops.spanLen ∧
    readRegister 0x044 s = s.res.u32 ∧ readRegister 0x048 s = s.res.f64Lo ∧ readRegister 0x04C s = s.res.f64Hi ∧
    readRegister 0x050 s = s.res.rectX0 ∧ readRegister 0x054 s = s.res.rectY0 ∧ readRegister 0x058 s = s.res.rectX1 ∧
    readRegister 0x05C s = s.res.rectY1 ∧
    (off ∈ ([0x020, 0x024, 0x028] : List Offset) ∨ 0x060 ≤ off.toNat → readRegister off s = 0)

/-- R271: bit 1 clears DONE, whatever the state; every other bit is ignored; a pending command is not affected and sets
DONE again when it completes. -/
def Obligations.StatusWriteClearsDone : Prop :=
  ∀ (s : State) (data : Word),
    exec (.wrStatus data) s = .next (if data.getLsbD 1 = true then { s with done := false } else s) ∧
    ∀ c, Pending c s → ∃ t u, exec (.wrStatus data) s = .next t ∧ Pending c t ∧ engineTurn t = .next u ∧ u.done = true

/-- R264: XWIDTH and YHEIGHT take any word when the block is idle and not READY, fault with FAULT_BUSY while a command is
pending and with FAULT_IMMUTABLE in READY, and (R272) ignore the write in FAULTED. -/
def Obligations.DimensionWrites : Prop :=
  ∀ (s : State) (data : Word),
    (s.engine = .faulted → exec (.wrXwidth data) s = .next s ∧ exec (.wrYheight data) s = .next s) ∧
    (s.engine ≠ .faulted → s.busy = true →
      exec (.wrXwidth data) s = .next (raiseFault .busy 0x014 s) ∧
      exec (.wrYheight data) s = .next (raiseFault .busy 0x018 s)) ∧
    (s.engine = .ready → s.busy = false →
      exec (.wrXwidth data) s = .next (raiseFault .immutable 0x014 s) ∧
      exec (.wrYheight data) s = .next (raiseFault .immutable 0x018 s)) ∧
    (s.engine ≠ .faulted → s.engine ≠ .ready → s.busy = false →
      exec (.wrXwidth data) s = .next { s with ops := { s.ops with xwidth := data } } ∧
      exec (.wrYheight data) s = .next { s with ops := { s.ops with yheight := data } })

/-- R265: SRC_ADDR takes any word unless a command is pending (FAULT_BUSY) or the block is FAULTED (R272, ignored). -/
def Obligations.SrcAddrWrites : Prop :=
  ∀ (s : State) (data : Word),
    (s.engine = .faulted → exec (.wrSrcAddr data) s = .next s) ∧
    (s.engine ≠ .faulted → s.busy = true → exec (.wrSrcAddr data) s = .next (raiseFault .busy 0x01C s)) ∧
    (s.engine ≠ .faulted → s.busy = false → exec (.wrSrcAddr data) s = .next { s with srcAddr := data })

/-- R266: SRC_DATA8 stores its low byte at SRC_ADDR, marks the cell valid and advances SRC_ADDR by 1; no other cell and
nothing else changes. It faults as R266 says, storing nothing. -/
def Obligations.SrcData8Stores : Prop :=
  ∀ (s : State) (data : Word),
    (s.engine = .faulted → exec (.wrSrcData8 data) s = .next s) ∧
    (s.engine ≠ .faulted → s.busy = true → exec (.wrSrcData8 data) s = .next (raiseFault .busy 0x020 s)) ∧
    (s.engine = .ready → s.busy = false → exec (.wrSrcData8 data) s = .next (raiseFault .immutable 0x020 s)) ∧
    (s.engine ≠ .faulted → s.engine ≠ .ready → s.busy = false → 2 ^ 24 ≤ s.srcAddr.toNat →
      exec (.wrSrcData8 data) s = .next (raiseFault .srcRange s.srcAddr s)) ∧
    (s.engine ≠ .faulted → s.engine ≠ .ready → s.busy = false → s.srcAddr.toNat < 2 ^ 24 →
      ∃ t, exec (.wrSrcData8 data) s = .next t ∧ t = { s with src := t.src, srcAddr := s.srcAddr + 1 } ∧
        ∀ i, Memory.lookup t.src i =
          if i = s.srcAddr.toNat then some (data.extractLsb' 0 8) else Memory.lookup s.src i)

/-- R267: SRC_DATA32 stores its four bytes, the least significant at SRC_ADDR, marks the four cells valid and advances
SRC_ADDR by 4, or faults and stores no byte. -/
def Obligations.SrcData32Stores : Prop :=
  ∀ (s : State) (data : Word),
    (s.engine = .faulted → exec (.wrSrcData32 data) s = .next s) ∧
    (s.engine ≠ .faulted → s.busy = true → exec (.wrSrcData32 data) s = .next (raiseFault .busy 0x024 s)) ∧
    (s.engine = .ready → s.busy = false → exec (.wrSrcData32 data) s = .next (raiseFault .immutable 0x024 s)) ∧
    (s.engine ≠ .faulted → s.engine ≠ .ready → s.busy = false → 2 ^ 24 < s.srcAddr.toNat + 4 →
      exec (.wrSrcData32 data) s = .next (raiseFault .srcRange s.srcAddr s)) ∧
    (s.engine ≠ .faulted → s.engine ≠ .ready → s.busy = false → s.srcAddr.toNat + 4 ≤ 2 ^ 24 →
      ∃ t, exec (.wrSrcData32 data) s = .next t ∧ t = { s with src := t.src, srcAddr := s.srcAddr + 4 } ∧
        ∀ i, Memory.lookup t.src i =
          if s.srcAddr.toNat ≤ i ∧ i < s.srcAddr.toNat + 4
          then some (data.extractLsb' (8 * (i - s.srcAddr.toNat)) 8) else Memory.lookup s.src i)

/-- R268, R269: the four corner registers and the two span registers take any word in every state but FAULTED, while a
command is pending too; in FAULTED the write is ignored. -/
def Obligations.QueryOperandWrites : Prop :=
  ∀ (s : State) (data : Word),
    (s.engine = .faulted →
      exec (.wrQX0 data) s = .next s ∧ exec (.wrQY0 data) s = .next s ∧
      exec (.wrQX1 data) s = .next s ∧ exec (.wrQY1 data) s = .next s ∧
      exec (.wrSpanAddr data) s = .next s ∧ exec (.wrSpanLen data) s = .next s) ∧
    (s.engine ≠ .faulted →
      exec (.wrQX0 data) s = .next { s with ops := { s.ops with qX0 := data } } ∧
      exec (.wrQY0 data) s = .next { s with ops := { s.ops with qY0 := data } } ∧
      exec (.wrQX1 data) s = .next { s with ops := { s.ops with qX1 := data } } ∧
      exec (.wrQY1 data) s = .next { s with ops := { s.ops with qY1 := data } } ∧
      exec (.wrSpanAddr data) s = .next { s with ops := { s.ops with spanAddr := data } } ∧
      exec (.wrSpanLen data) s = .next { s with ops := { s.ops with spanLen := data } })

/-- R273: a malformed access, and a well-formed write to a read-only or reserved offset, are decoded as such; outside
FAULTED they raise FAULT_BUS with the offset and do nothing else (a malformed read returns 0); in FAULTED they are
ignored. -/
def Obligations.ForbiddenAccesses : Prop :=
  ∀ (s : State) (off : Offset) (size : Nat) (data : Word),
    (size ≠ 4 ∨ off.toNat % 4 ≠ 0 →
      decode (.write off size data) = .ok (.busMalformed .write off size) ∧
      decode (.read off size) = .ok (.busMalformed .read off size)) ∧
    (off.toNat % 4 = 0 → off ∈ ([0x000, 0x004, 0x010] : List Offset) ∨ 0x044 ≤ off.toNat →
      decode (.write off 4 data) = .ok (.wrRoOrReserved off data)) ∧
    (s.engine ≠ .faulted →
      exec (.wrRoOrReserved off data) s = .next (raiseFault .bus (off.setWidth 32) s) ∧
      exec (.busMalformed .write off size) s = .next (raiseFault .bus (off.setWidth 32) s) ∧
      exec (.busMalformed .read off size) s =
        .next { raiseFault .bus (off.setWidth 32) s with host := { s.host with readData := 0 } }) ∧
    (s.engine = .faulted →
      exec (.wrRoOrReserved off data) s = .next s ∧
      exec (.busMalformed .write off size) s = .next s ∧
      exec (.busMalformed .read off size) s = .next { s with host := { s.host with readData := 0 } })

/-! ## Faults -/

/-- R314: fault entry sets FAULTED, the code and the information and cancels the pending command, which never completes;
all else stays, but for SUM and NZ after a cancelled BUILD. -/
def Obligations.FaultEntryEffects : Prop :=
  ∀ (code : FaultCode) (info : Word) (s : State),
    let t := raiseFault code info s
    t = { s with engine := .faulted, faultCode := code, faultInfo := info, busy := false,
                 sum := t.sum, nz := t.nz, era := t.era } ∧
    (s.engine ≠ .building → t.sum = s.sum ∧ t.nz = s.nz ∧ t.era = s.era) ∧
    (statusWord t).getLsbD 2 = true ∧ engineTurn t = .next t

/-- R272: in FAULTED every write but the well-formed ones to CTRL and STATUS is ignored, commands and illegal command words
included; reads behave as in every state. -/
def Obligations.FaultedIgnoresWrites : Prop :=
  ∀ (s : State), s.engine = .faulted → s.host.rst = false →
    (∀ off size data, malformed off size = true ∨ off ≠ 0x008 ∧ off ≠ 0x00C →
      hostTurn (.write off size data) s = .next s) ∧
    (∀ off, malformed off 4 = false →
      hostTurn (.read off 4) s = .next { s with host := { s.host with readData := readRegister off s } })

/-- R317, R318: once FAULTED the block stays FAULTED with the first fault's code and information, whatever steps follow,
until a reset. -/
def Obligations.FaultedLeftOnlyByReset : Prop :=
  ∀ (s t : State), s.engine = .faulted → step s = .next t →
    (t.engine = .faulted ∧ t.faultCode = s.faultCode ∧ t.faultInfo = s.faultInfo) ∨ AtReset t

/-- R115, R305, R306, R307: the state checks of every command: FAULT_BUSY while busy, FAULT_NOT_READY for a query or table
read in EMPTY, FAULT_IMMUTABLE for BUILD in READY, nothing in FAULTED. -/
def Obligations.CommandStateChecks : Prop :=
  ∀ (c : Command) (s : State),
    (s.engine = .faulted → exec c.instr s = .next s) ∧
    (s.engine ≠ .faulted → s.busy = true → exec c.instr s = .next (raiseFault .busy 0x028 s)) ∧
    (c.needsTables = true → s.engine = .empty → s.busy = false →
      exec c.instr s = .next (raiseFault .notReady (commandWord c) s)) ∧
    (c = .build → s.engine = .ready → s.busy = false →
      exec c.instr s = .next (raiseFault .immutable 0x00000001 s))

/-- R316: every fault is raised by a HOST transaction, never by the ENGINE's completion. -/
def Obligations.EngineRaisesNoFault : Prop :=
  ∀ (s t : State), engineTurn s = .next t →
    t.faultCode = s.faultCode ∧ t.faultInfo = s.faultInfo ∧ (t.engine = .faulted ↔ s.engine = .faulted)

/-- R58, R319: IRQ is IE and (DONE or FAULT): raised by every command's completion and by any fault where IE is set,
dropped by the acknowledging write, by masking and by a reset (in FAULTED too), and by the acceptance of every command. -/
def Obligations.InterruptLine : Prop :=
  (∀ s : State, irq s = true ↔ s.ie = true ∧ (s.done = true ∨ s.engine = .faulted)) ∧
  (∀ (c : Command) (s t : State), Pending c s → engineTurn s = .next t → irq t = s.ie) ∧
  (∀ (s : State) (code : FaultCode) (info : Word), irq (raiseFault code info s) = s.ie) ∧
  (∀ (data : Word) (s t : State), data.getLsbD 1 = true → exec (.wrStatus data) s = .next t →
    irq t = (s.ie && s.engine == .faulted)) ∧
  (∀ (data : Word) (s t : State), data.getLsbD 0 = true ∨ data.getLsbD 1 = false → exec (.wrCtrl data) s = .next t →
    irq t = false) ∧
  (∀ (c : Command) (s t : State), Idle s → exec c.instr s = .next t → t.engine ≠ .faulted → irq t = false)

/-! ## Lifecycle commands -/

/-- R263: NOP is accepted in EMPTY and READY and its completion changes BUSY and DONE alone. -/
def Obligations.NopAcceptedAndCompleted : Prop :=
  (∀ s : State, Idle s →
    exec .nop s = .next { s with
      lat := { cmd := 0x00000000, x0 := s.ops.qX0, y0 := s.ops.qY0, x1 := s.ops.qX1, y1 := s.ops.qY1,
               sa := s.ops.spanAddr, sl := s.ops.spanLen }
      busy := true, done := false }) ∧
  ∀ s : State, Pending .nop s → engineTurn s = .next { s with busy := false, done := true }

/-- R262: CLEAR is accepted in EMPTY and READY; its completion clears VALID and returns to EMPTY, and changes no register
besides BUSY and DONE. -/
def Obligations.ClearAcceptedAndCompleted : Prop :=
  (∀ s : State, Idle s →
    exec .clear s = .next { s with
      lat := { cmd := 0x00000002, x0 := s.ops.qX0, y0 := s.ops.qY0, x1 := s.ops.qX1, y1 := s.ops.qY1,
               sa := s.ops.spanAddr, sl := s.ops.spanLen }
      busy := true, done := false }) ∧
  ∀ s : State, Pending .clear s → ∃ t, engineTurn s = .next t ∧
    (∀ i, srcValid t i = false) ∧
    t = { s with engine := .empty, busy := false, done := true, src := t.src, sum := t.sum, nz := t.nz,
                 tabW := t.tabW, tabH := t.tabH, era := t.era }

/-- R191, R192: BUILD with legal dimensions and every pixel written is accepted: the dimensions are latched, the state is
BUILDING, and nothing else changes but SUM and NZ, which are unspecified. -/
def Obligations.BuildAccepted : Prop :=
  ∀ (s : State) (w h : Nat), s.engine = .empty → s.busy = false →
    s.ops.xwidth.toInt = w → s.ops.yheight.toInt = h → 0 < w → 0 < h → w * h ≤ 2 ^ 24 →
    (∀ i, i < w * h → srcValid s i = true) →
      ∃ t, exec .build s = .next t ∧
        t = { s with
          lat := { cmd := 0x00000001, x0 := s.ops.qX0, y0 := s.ops.qY0, x1 := s.ops.qX1, y1 := s.ops.qY1,
                   sa := s.ops.spanAddr, sl := s.ops.spanLen }
          busy := true, done := false, engine := .building, tabW := w, tabH := h,
          sum := t.sum, nz := t.nz, era := t.era }

/-- R191: the acceptance checks of BUILD in their order: a non-positive dimension, an exact product above 2^24, the lowest
unwritten index. -/
def Obligations.BuildChecksInOrder : Prop :=
  ∀ s : State, s.engine = .empty → s.busy = false →
    let w := s.ops.xwidth.toInt
    let h := s.ops.yheight.toInt
    (w ≤ 0 ∨ h ≤ 0 → exec .build s = .next (raiseFault .badDim 0x00000001 s)) ∧
    (0 < w → 0 < h → 2 ^ 24 < w * h → exec .build s = .next (raiseFault .size 0x00000001 s)) ∧
    (0 < w → 0 < h → w * h ≤ 2 ^ 24 → ∀ i : Nat, (i : Int) < w * h → srcValid s i = false →
      (∀ j, j < i → srcValid s j = true) →
        exec .build s = .next (raiseFault .srcUnwritten (BitVec.ofNat 32 i) s))

/-- R193: BUILD's completion: each cell is the row-local prefix plus the cell above (0 for row 0), for both tables, and the
state is READY; cells beyond the buffer stay unspecified and (R198) nothing else changes. -/
def Obligations.BuildFollowsRecurrence : Prop :=
  ∀ s : State, Pending .build s → ∃ t, engineTurn s = .next t ∧
    t = { s with engine := .ready, busy := false, done := true, sum := t.sum, nz := t.nz } ∧
    (∀ i, s.tabW * s.tabH ≤ i → Memory.lookup t.sum i = none ∧ Memory.lookup t.nz i = none) ∧
    ∀ x y, x < s.tabW → y < s.tabH →
      sumCell t (y * s.tabW + x) =
        sumRange (fun i => (srcCell s (y * s.tabW + i)).setWidth 32) (x + 1) 0 +
          (if y = 0 then 0 else sumCell t ((y - 1) * s.tabW + x)) ∧
      nzCell t (y * s.tabW + x) =
        sumRange (fun i => if srcCell s (y * s.tabW + i) ≠ 0 then 1 else 0) (x + 1) 0 +
          (if y = 0 then 0 else nzCell t ((y - 1) * s.tabW + x))

/-- R194: after BUILD completes every cell is the exact sum (the exact non-zero count) of the pixels above and to the left
of it, itself included: no value wraps; and the classic summed-area recurrence holds. -/
def Obligations.BuildClosedForm : Prop :=
  ∀ s : State, Pending .build s → s.tabW * s.tabH ≤ 2 ^ 24 → ∃ t, engineTurn s = .next t ∧
    ∀ x y, x < s.tabW → y < s.tabH →
      (sumCell t (y * s.tabW + x)).toNat = regionSum s.tabW (pixelNat s) 0 0 x y ∧
      (nzCell t (y * s.tabW + x)).toNat = regionSum s.tabW (nonZeroNat s) 0 0 x y ∧
      (sumCell t (y * s.tabW + x)).toNat +
          (if x = 0 ∨ y = 0 then 0 else (sumCell t ((y - 1) * s.tabW + (x - 1))).toNat) =
        pixelNat s (y * s.tabW + x) + (if x = 0 then 0 else (sumCell t (y * s.tabW + (x - 1))).toNat) +
          (if y = 0 then 0 else (sumCell t ((y - 1) * s.tabW + x)).toNat)

/-- R200: in READY both tables are non-decreasing along both axes. -/
def Obligations.TablesMonotone : Prop :=
  ∀ s : State, Invariant s → s.engine = .ready → ∀ x y, x < s.tabW → y < s.tabH →
    (1 ≤ x → (sumCell s (y * s.tabW + (x - 1))).toNat ≤ (sumCell s (y * s.tabW + x)).toNat ∧
      (nzCell s (y * s.tabW + (x - 1))).toNat ≤ (nzCell s (y * s.tabW + x)).toNat) ∧
    (1 ≤ y → (sumCell s ((y - 1) * s.tabW + x)).toNat ≤ (sumCell s (y * s.tabW + x)).toNat ∧
      (nzCell s ((y - 1) * s.tabW + x)).toNat ≤ (nzCell s (y * s.tabW + x)).toNat)

/-! ## Queries and table reads -/

/-- R220, R226, R260: in READY with BUSY = 0 the four queries, and the table reads with a cell inside the table, are
accepted: their operands are latched and only BUSY and DONE change. -/
def Obligations.QueriesAcceptedInReady : Prop :=
  ∀ s : State, s.engine = .ready → s.busy = false →
    let latched (word : Word) : State := { s with
      lat := { cmd := word, x0 := s.ops.qX0, y0 := s.ops.qY0, x1 := s.ops.qX1, y1 := s.ops.qY1,
               sa := s.ops.spanAddr, sl := s.ops.spanLen }
      busy := true, done := false }
    exec .qsum s = .next (latched 0x10) ∧ exec .qavg s = .next (latched 0x11) ∧
    exec .qnzc s = .next (latched 0x12) ∧ exec .qnzavg s = .next (latched 0x13) ∧
    (0 ≤ s.ops.qX0.toInt → s.ops.qX0.toInt ≤ s.tabW - 1 → 0 ≤ s.ops.qY0.toInt → s.ops.qY0.toInt ≤ s.tabH - 1 →
      exec .trdSum s = .next (latched 0x20) ∧ exec .trdNz s = .next (latched 0x21))

/-- R310: a table read outside the table raises FAULT_INDEX with the command word; its coordinates are not clamped. -/
def Obligations.TableReadIndexFault : Prop :=
  ∀ s : State, s.engine = .ready → s.busy = false →
    ¬ (0 ≤ s.ops.qX0.toInt ∧ s.ops.qX0.toInt ≤ s.tabW - 1 ∧ 0 ≤ s.ops.qY0.toInt ∧ s.ops.qY0.toInt ≤ s.tabH - 1) →
      exec .trdSum s = .next (raiseFault .index 0x00000020 s) ∧
      exec .trdNz s = .next (raiseFault .index 0x00000021 s)

/-- R222, R228, R230: QSUM returns the exact sum of the pixels of the clamped rectangle and reports that rectangle;
RES_F64 and everything else is unchanged. -/
def Obligations.QsumIsExact : Prop :=
  ∀ s : State, Invariant s → Pending .qsum s → ∃ t, engineTurn s = .next t ∧
    t.res.u32.toNat = naiveSum s ∧
    t = { s with busy := false, done := true, res := { s.res with
      u32 := t.res.u32
      rectX0 := asU32 (clampedQuery s).x0, rectY0 := asU32 (clampedQuery s).y0
      rectX1 := asU32 (clampedQuery s).x1, rectY1 := asU32 (clampedQuery s).y1 } }

/-- R224, R228, R230: QNZC, the same for the count of non-zero pixels. -/
def Obligations.QnzcIsExact : Prop :=
  ∀ s : State, Invariant s → Pending .qnzc s → ∃ t, engineTurn s = .next t ∧
    t.res.u32.toNat = naiveCount s ∧
    t = { s with busy := false, done := true, res := { s.res with
      u32 := t.res.u32
      rectX0 := asU32 (clampedQuery s).x0, rectY0 := asU32 (clampedQuery s).y0
      rectX1 := asU32 (clampedQuery s).x1, rectY1 := asU32 (clampedQuery s).y1 } }

/-- R223, R230: QAVG divides the exact clamped sum by the area of the ORIGINAL, unclamped rectangle, in binary64, and
leaves the sum in RES_U32. The definition of binary64 is general knowledge (notes/assumptions/9.md, PRESUMED). -/
def Obligations.QavgIsExact : Prop :=
  ∀ s : State, Invariant s → Pending .qavg s → ∃ t, engineTurn s = .next t ∧
    t.res.u32.toNat = naiveSum s ∧
    t.res.f64Hi ++ t.res.f64Lo =
      bits64 (f64Div (f64OfNat (naiveSum s)) (f64OfNat (getWidth (queryRect s) * getHeight (queryRect s)))) ∧
    t = { s with busy := false, done := true, res := {
      u32 := t.res.u32, f64Lo := t.res.f64Lo, f64Hi := t.res.f64Hi
      rectX0 := asU32 (clampedQuery s).x0, rectY0 := asU32 (clampedQuery s).y0
      rectX1 := asU32 (clampedQuery s).x1, rectY1 := asU32 (clampedQuery s).y1 } }

/-- R225, R230: QNZAVG divides the exact clamped sum by the exact clamped count, is +0.0 where the count is 0, and leaves
the count in RES_U32. The definition of binary64 is general knowledge (notes/assumptions/9.md, PRESUMED). -/
def Obligations.QnzavgIsExact : Prop :=
  ∀ s : State, Invariant s → Pending .qnzavg s → ∃ t, engineTurn s = .next t ∧
    t.res.u32.toNat = naiveCount s ∧
    t.res.f64Hi ++ t.res.f64Lo =
      (if naiveCount s = 0 then 0 else bits64 (f64Div (f64OfNat (naiveSum s)) (f64OfNat (naiveCount s)))) ∧
    t = { s with busy := false, done := true, res := {
      u32 := t.res.u32, f64Lo := t.res.f64Lo, f64Hi := t.res.f64Hi
      rectX0 := asU32 (clampedQuery s).x0, rectY0 := asU32 (clampedQuery s).y0
      rectX1 := asU32 (clampedQuery s).x1, rectY1 := asU32 (clampedQuery s).y1 } }

/-- R194, R226, R227: a table read returns the cell of its table, which is the exact sum or count of the pixels above and
to the left; RECT, RES_F64 and everything else is unchanged. -/
def Obligations.TableReadsReturnCells : Prop :=
  ∀ s : State, Invariant s →
    (Pending .trdSum s → ∃ t, engineTurn s = .next t ∧
      t.res.u32.toNat = regionSum s.tabW (pixelNat s) 0 0 s.lat.x0.toInt.toNat s.lat.y0.toInt.toNat ∧
      t = { s with busy := false, done := true, res := { s.res with u32 := t.res.u32 } }) ∧
    (Pending .trdNz s → ∃ t, engineTurn s = .next t ∧
      t.res.u32.toNat = regionSum s.tabW (nonZeroNat s) 0 0 s.lat.x0.toInt.toNat s.lat.y0.toInt.toNat ∧
      t = { s with busy := false, done := true, res := { s.res with u32 := t.res.u32 } })

/-! ## Span commands -/

/-- R172, R173: the span commands are accepted in EMPTY and READY where the span lies in SRC and is wholly written. -/
def Obligations.SpansAccepted : Prop :=
  ∀ s : State, Idle s → s.ops.spanAddr.toNat + s.ops.spanLen.toNat ≤ 2 ^ 24 →
    (∀ i, s.ops.spanAddr.toNat ≤ i → i < s.ops.spanAddr.toNat + s.ops.spanLen.toNat → srcValid s i = true) →
    let latched (word : Word) : State := { s with
      lat := { cmd := word, x0 := s.ops.qX0, y0 := s.ops.qY0, x1 := s.ops.qX1, y1 := s.ops.qY1,
               sa := s.ops.spanAddr, sl := s.ops.spanLen }
      busy := true, done := false }
    exec .spanSum s = .next (latched 0x30) ∧ exec .spanNzc s = .next (latched 0x31)

/-- R172, R173, R315: the span checks in their order: the exact range, then the lowest unwritten index of the span. -/
def Obligations.SpanChecksInOrder : Prop :=
  ∀ s : State, Idle s →
    let a := s.ops.spanAddr.toNat
    let n := s.ops.spanLen.toNat
    (2 ^ 24 < a + n →
      exec .spanSum s = .next (raiseFault .spanRange 0x00000030 s) ∧
      exec .spanNzc s = .next (raiseFault .spanRange 0x00000031 s)) ∧
    (a + n ≤ 2 ^ 24 → ∀ i, a ≤ i → i < a + n → srcValid s i = false →
      (∀ j, a ≤ j → j < i → srcValid s j = true) →
        exec .spanSum s = .next (raiseFault .srcUnwritten (BitVec.ofNat 32 i) s) ∧
        exec .spanNzc s = .next (raiseFault .srcUnwritten (BitVec.ofNat 32 i) s))

/-- R170, R172, R173, R174: the span commands return the exact sum and the exact non-zero count of the latched span; no
other register changes. -/
def Obligations.SpanResultsAreExact : Prop :=
  ∀ s : State, s.lat.sa.toNat + s.lat.sl.toNat ≤ 2 ^ 24 →
    (Pending .spanSum s → ∃ t, engineTurn s = .next t ∧
      t.res.u32.toNat = ∑ k ∈ Finset.range s.lat.sl.toNat, pixelNat s (s.lat.sa.toNat + k) ∧
      t = { s with busy := false, done := true, res := { s.res with u32 := t.res.u32 } }) ∧
    (Pending .spanNzc s → ∃ t, engineTurn s = .next t ∧
      t.res.u32.toNat = ∑ k ∈ Finset.range s.lat.sl.toNat, nonZeroNat s (s.lat.sa.toNat + k) ∧
      t = { s with busy := false, done := true, res := { s.res with u32 := t.res.u32 } })

/-! ## The Rect utility -/

/-- R145, R146: the clamped rectangle is never empty and lies inside the buffer; a rectangle beyond an edge is clamped
onto that edge's cells. -/
def Obligations.ClampedRectNeverEmpty : Prop :=
  ∀ (w h : Nat) (q : Rect), 1 ≤ w → 1 ≤ h →
    let c := clampRect w h q
    (0 ≤ c.x0 ∧ c.x0 ≤ c.x1 ∧ c.x1 ≤ (w : Int) - 1 ∧ 0 ≤ c.y0 ∧ c.y0 ≤ c.y1 ∧ c.y1 ≤ (h : Int) - 1) ∧
    ((w : Int) ≤ q.x0 → (w : Int) ≤ q.x1 → c.x0 = w - 1 ∧ c.x1 = w - 1) ∧ (q.x0 < 0 → q.x1 < 0 → c.x0 = 0 ∧ c.x1 = 0) ∧
    ((h : Int) ≤ q.y0 → (h : Int) ≤ q.y1 → c.y0 = h - 1 ∧ c.y1 = h - 1) ∧ (q.y0 < 0 → q.y1 < 0 → c.y0 = 0 ∧ c.y1 = 0)

/-- R147: clamping is idempotent; normalising and clamping do not depend on the order of the corners, on either axis. -/
def Obligations.RectAlgebra : Prop :=
  (∀ (r : Rect) (minX minY maxX maxY : Int), minX ≤ maxX → minY ≤ maxY →
    intersected (intersected r minX minY maxX maxY) minX minY maxX maxY = intersected r minX minY maxX maxY) ∧
  (∀ x0 y0 x1 y1 : Int, normalized ⟨x0, y0, x1, y1⟩ = normalized ⟨x1, y1, x0, y0⟩) ∧
  ∀ (w h : Nat) (x0 y0 x1 y1 : Int),
    clampRect w h ⟨x0, y0, x1, y1⟩ = clampRect w h ⟨x1, y1, x0, y0⟩ ∧
    clampRect w h ⟨x0, y0, x1, y1⟩ = clampRect w h ⟨x1, y0, x0, y1⟩ ∧
    clampRect w h ⟨x0, y0, x1, y1⟩ = clampRect w h ⟨x0, y1, x1, y0⟩

/-- R52, R140 to R144, R148: a query's rectangle is the four latched words read as signed integers; its width and height
are the exact absolute difference plus one, from 1 to 2^32, whatever the order of the corners; clamping orders the
corners, leaves a coordinate in range where it is and moves one out of range onto the edge; it never widens, and keeps a
width where both coordinates are in range or equal. R148's equality for different coordinates beyond one edge is left
out: R142 and R144 contradict it (notes/assumptions/13.md). -/
def Obligations.WidthAsymmetry : Prop :=
  (∀ s : State, queryRect s = ⟨s.lat.x0.toInt, s.lat.y0.toInt, s.lat.x1.toInt, s.lat.y1.toInt⟩ ∧
    1 ≤ getWidth (queryRect s) ∧ getWidth (queryRect s) ≤ 2 ^ 32 ∧
    1 ≤ getHeight (queryRect s) ∧ getHeight (queryRect s) ≤ 2 ^ 32) ∧
  (∀ r : Rect, (getWidth r : Int) = |r.x1 - r.x0| + 1 ∧ (getHeight r : Int) = |r.y1 - r.y0| + 1 ∧
    getWidth (normalized r) = getWidth r ∧ getHeight (normalized r) = getHeight r) ∧
  ∀ (w h : Nat) (q : Rect), 1 ≤ w → 1 ≤ h →
    let c := clampRect w h q
    let onto (v : Int) (n : Nat) : Int := if v < 0 then 0 else if v ≤ (n : Int) - 1 then v else (n : Int) - 1
    (c.x0 = onto (min q.x0 q.x1) w ∧ c.x1 = onto (max q.x0 q.x1) w ∧
      c.y0 = onto (min q.y0 q.y1) h ∧ c.y1 = onto (max q.y0 q.y1) h) ∧
    getWidth c ≤ getWidth q ∧ getHeight c ≤ getHeight q ∧
    (0 ≤ q.x0 → q.x0 ≤ (w : Int) - 1 → 0 ≤ q.x1 → q.x1 ≤ (w : Int) - 1 →
      c.x0 = min q.x0 q.x1 ∧ c.x1 = max q.x0 q.x1 ∧ getWidth c = getWidth q) ∧
    (0 ≤ q.y0 → q.y0 ≤ (h : Int) - 1 → 0 ≤ q.y1 → q.y1 ≤ (h : Int) - 1 →
      c.y0 = min q.y0 q.y1 ∧ c.y1 = max q.y0 q.y1 ∧ getHeight c = getHeight q) ∧
    (q.x0 = q.x1 → getWidth c = getWidth q) ∧ (q.y0 = q.y1 → getHeight c = getHeight q)

/-! ## The vector path -/

/-- R166: the shifted adds give every lane the sum of the lanes up to it, for both lane counts. -/
def Obligations.LanePrefixSums : Prop :=
  ∀ L : Nat, L = 8 ∨ L = 16 → ∀ (v : Lanes L Word) (k : Fin L),
    (lanePrefix v k).toNat = (∑ j : Fin L, if j ≤ k then (v j).toNat else 0) % 2 ^ 32

/-- R168: horizontal reduction is the sum of the lanes modulo 2^32. -/
def Obligations.HorizontalReduction : Prop :=
  ∀ (L : Nat) (v : Lanes L Word), (hreduce v).toNat = (∑ k : Fin L, (v k).toNat) % 2 ^ 32

/-- R171: the vectorised span functions equal the scalar ones, for both lane counts and every span. -/
def Obligations.SpanPathsAgree : Prop :=
  ∀ L : Nat, L = 8 ∨ L = 16 → ∀ (s : State) (a n : Nat),
    spanSumVec L (srcCell s) a n = spanSum s a n ∧ spanNzcVec L (srcCell s) a n = spanNzc s a n

/-- R195, R196, R197: the tables of the vectorised path equal those of the scalar recurrence cell for cell, for both lane
counts, every source and every shape. -/
def Obligations.BuildPathsAgree : Prop :=
  ∀ L : Nat, L = 8 ∨ L = 16 → ∀ (cell : Nat → Byte) (w h : Nat),
    vecTable L laneWiden pixelValue cell w h = scalarTable pixelValue cell w h ∧
    vecTable L laneNzmask pixelNonZero cell w h = scalarTable pixelNonZero cell w h

/-! ## Binary64

R17's formats and roundings are general knowledge (93_implementation_defined.md G1; notes/assumptions/9.md). -/

/-- R17: conversion and division round the exact value to a nearest binary64, and on a tie to the even one. -/
def Obligations.RoundsToNearestEven : Prop :=
  ∀ num den : Nat, 0 < den →
    (roundF64 num den).representable ∧
    ∀ g : F64, g.representable →
      |(num / den : ℚ) - (roundF64 num den).value| ≤ |(num / den : ℚ) - g.value| ∧
      (|(num / den : ℚ) - (roundF64 num den).value| = |(num / den : ℚ) - g.value| →
        g.value = (roundF64 num den).value ∨ (roundF64 num den).sig % 2 = 0)

/-- R17, R223: division of two values is one rounding of their exact quotient: a binary64 value, none nearer, and on a
tie the even one. -/
def Obligations.DivisionRoundsOnce : Prop :=
  ∀ a b : F64, 0 < b.sig →
    (f64Div a b).representable ∧
    ∀ g : F64, g.representable →
      |a.value / b.value - (f64Div a b).value| ≤ |a.value / b.value - g.value| ∧
      (|a.value / b.value - (f64Div a b).value| = |a.value / b.value - g.value| →
        g.value = (f64Div a b).value ∨ (f64Div a b).sig % 2 = 0)

/-- R17: the 64-bit encoding of a rounded value below 2^1023 stands for that value, with sign 0. -/
def Obligations.EncodingKeepsValue : Prop :=
  ∀ num den : Nat, 0 < den → num < 2 ^ 1023 * den →
    encodedValue (bits64 (roundF64 num den)) = (roundF64 num den).value ∧ (bits64 (roundF64 num den)).msb = false

/-! ## The whole machine -/

/-- The invariant holds after reset. -/
def Obligations.ResetMeetsInvariant : Prop := Invariant State.reset

/-- R30, R53, R83, R99, R260, R301, R314: every step of either agent keeps the invariant, from every state that meets
it. -/
def Obligations.StepKeepsInvariant : Prop :=
  ∀ s t : State, Invariant s → step s = .next t → Invariant t

/-- R261, R300: no step of the block stops the machine: a fault of the block is a next state. -/
def Obligations.StepAlwaysAnswers : Prop :=
  ∀ s : State, Invariant s → ∃ t, step s = .next t

/-- R261, R357: with no further transaction the very next step completes the pending command. That the ENGINE moves when
the script is empty is the model's choice (notes/assumptions/5.md). -/
def Obligations.PendingCommandCompletes : Prop :=
  ∀ s : State, Invariant s → s.busy = true → s.host.rst = false → s.host.script = [] →
    ∃ t, step s = .next t ∧ t.busy = false ∧ t.done = true

/-- R30: the transitions of the engine state are exactly reset, BUILD's acceptance, BUILD's completion, CLEAR's completion
and fault entry. -/
def Obligations.EngineStateTransitions : Prop :=
  ∀ s t : State, Invariant s → step s = .next t →
    t.engine = s.engine ∨ AtReset t ∨ t.engine = .faulted ∨
    (s.engine = .empty ∧ t.engine = .building ∧ t.busy = true ∧ t.lat.cmd = 0x00000001) ∨
    (Pending .build s ∧ s.engine = .building ∧ t.engine = .ready) ∨
    (Pending .clear s ∧ s.engine = .ready ∧ t.engine = .empty)

/-- R83, R99, R202: in READY the source, the tables and their dimensions change only by CLEAR's completion or a reset. -/
def Obligations.ReadyIsImmutable : Prop :=
  ∀ s t : State, Invariant s → s.engine = .ready → step s = .next t →
    (t.src = s.src ∧ t.sum = s.sum ∧ t.nz = s.nz ∧ t.tabW = s.tabW ∧ t.tabH = s.tabH) ∨ AtReset t ∨
    (Pending .clear s ∧ t.engine = .empty)

/-- R46, R274: no transaction of the HOST but a reset changes a result register: results appear at completion alone. -/
def Obligations.ResultsChangeOnlyAtCompletion : Prop :=
  ∀ (i : Instr) (s t : State), exec i s = .next t → (∀ data, i = .wrCtrl data → data.getLsbD 0 = false) → t.res = s.res

/-- R52, R261, R268: completion reads the latches and never the live registers, so host writes after acceptance do not
change the pending command's result. -/
def Obligations.CompletionReadsOnlyLatches : Prop :=
  ∀ (s t : State) (ops : OperandRegs) (srcAddr : Word) (ie : Bool), engineTurn s = .next t →
    engineTurn { s with ops := ops, srcAddr := srcAddr, ie := ie } =
      .next { t with ops := ops, srcAddr := srcAddr, ie := ie }
end

