-- ==== Sys2Proof/Laws/Memory.lean ====
section
/-! SUPPORT. The laws of the memory operations (20_memory.md R81, 45_control.md R266): read after write, and that every
operation keeps the canonical form. -/

namespace Sys2Proof.Machine

variable {α : Type}

@[simp] theorem lookup_nil (i : Nat) : Memory.lookup ([] : List (Nat × α)) i = none := rfl

/-- The cell written reads as the value written; every other cell reads as before. -/
@[simp] theorem lookup_insert (m : List (Nat × α)) (i j : Nat) (v : α) :
    Memory.lookup (Memory.insert i v m) j = if j = i then some v else Memory.lookup m j := by
  induction m with
  | nil => simp [Memory.insert, Memory.lookup]
  | cons p m ih =>
    obtain ⟨k, w⟩ := p
    simp only [Memory.insert]
    split
    · simp [Memory.lookup]
    · split
      · subst_vars; simp only [Memory.lookup]; split <;> rfl
      · simp only [Memory.lookup, ih]
        split
        · rename_i h; subst h; split
          · omega
          · rfl
        · rfl

/-- A value list from index `i` lists exactly its own range. -/
theorem lookup_ofListFrom (l : List α) (i j : Nat) :
    Memory.lookup (Memory.ofListFrom i l) j = if i ≤ j then l[j - i]? else none := by
  induction l generalizing i with
  | nil => simp [Memory.ofListFrom]
  | cons v l ih =>
    simp only [Memory.ofListFrom, Memory.lookup, ih]
    by_cases h : j = i
    · subst h; simp
    · by_cases h2 : i ≤ j
      · have h3 : i + 1 ≤ j := by omega
        have : j - i = (j - (i + 1)) + 1 := by omega
        simp [h, h2, h3, this]
      · have h3 : ¬ i + 1 ≤ j := by omega
        simp [h, h2, h3]

theorem wfFrom_mono {m : List (Nat × α)} {lo lo' : Nat} (h : Memory.wfFrom lo m = true) (hl : lo' ≤ lo) :
    Memory.wfFrom lo' m = true := by
  cases m with
  | nil => rfl
  | cons p m =>
    simp only [Memory.wfFrom, Bool.and_eq_true, decide_eq_true_eq] at h ⊢
    exact ⟨⟨by omega, h.1.2⟩, h.2⟩

theorem wfFrom_insert {m : List (Nat × α)} {lo i : Nat} (v : α) (h : Memory.wfFrom lo m = true) (hl : lo ≤ i)
    (hi : i < Config.maxCells) : Memory.wfFrom lo (Memory.insert i v m) = true := by
  induction m generalizing lo with
  | nil => simp [Memory.insert, Memory.wfFrom, hl, hi]
  | cons p m ih =>
    obtain ⟨j, w⟩ := p
    simp only [Memory.wfFrom, Bool.and_eq_true, decide_eq_true_eq] at h
    simp only [Memory.insert]
    split
    · simp only [Memory.wfFrom, Bool.and_eq_true, decide_eq_true_eq]
      exact ⟨⟨hl, hi⟩, ⟨by omega, h.1.2⟩, h.2⟩
    · split
      · subst_vars
        simp only [Memory.wfFrom, Bool.and_eq_true, decide_eq_true_eq]
        exact ⟨⟨hl, hi⟩, h.2⟩
      · simp only [Memory.wfFrom, Bool.and_eq_true, decide_eq_true_eq]
        exact ⟨h.1, ih h.2 (by omega)⟩

/-- A write below `MAX_CELLS` keeps the canonical form. -/
theorem wf_insert {m : List (Nat × α)} {i : Nat} (v : α) (h : Memory.wf m = true) (hi : i < Config.maxCells) :
    Memory.wf (Memory.insert i v m) = true :=
  wfFrom_insert v h (Nat.zero_le _) hi

theorem wfFrom_ofListFrom (l : List α) (i : Nat) (h : i + l.length ≤ Config.maxCells) :
    Memory.wfFrom i (Memory.ofListFrom i l) = true := by
  induction l generalizing i with
  | nil => rfl
  | cons v l ih =>
    simp only [List.length_cons] at h
    simp only [Memory.ofListFrom, Memory.wfFrom, Bool.and_eq_true, decide_eq_true_eq]
    exact ⟨⟨Nat.le_refl _, by omega⟩, ih (i + 1) (by omega)⟩

/-- A table of at most `MAX_CELLS` cells is in canonical form. -/
theorem wf_ofListFrom (l : List α) (h : l.length ≤ Config.maxCells) :
    Memory.wf (Memory.ofListFrom 0 l) = true :=
  wfFrom_ofListFrom l 0 (by omega)

@[simp] theorem wf_nil : Memory.wf ([] : List (Nat × α)) = true := rfl

/-- The lowest unwritten index is in the range, unwritten, and everything below it in the range is written. -/
theorem firstUnwritten_some {s : State} {n a i : Nat} (h : firstUnwritten s n a = some i) :
    a ≤ i ∧ i < a + n ∧ srcValid s i = false ∧ ∀ j, a ≤ j → j < i → srcValid s j = true := by
  induction n generalizing a with
  | zero => simp [firstUnwritten] at h
  | succ n ih =>
    simp only [firstUnwritten] at h
    split at h
    · rename_i hv
      obtain ⟨h1, h2, h3, h4⟩ := ih h
      refine ⟨by omega, by omega, h3, fun j hj hji => ?_⟩
      by_cases hja : j = a
      · subst hja; exact hv
      · exact h4 j (by omega) hji
    · rename_i hv
      cases h
      exact ⟨Nat.le_refl _, by omega, by simpa using hv, fun j h1 h2 => by omega⟩

/-- No unwritten index means that the whole range is written. -/
theorem firstUnwritten_none {s : State} {n a : Nat} :
    firstUnwritten s n a = none ↔ ∀ i, a ≤ i → i < a + n → srcValid s i = true := by
  induction n generalizing a with
  | zero => simp [firstUnwritten]; intro i _ _; omega
  | succ n ih =>
    simp only [firstUnwritten]
    split
    · rename_i hv
      rw [ih]
      constructor
      · intro h i h1 h2
        by_cases hia : i = a
        · subst hia; exact hv
        · exact h i (by omega) (by omega)
      · intro h i h1 h2; exact h i (by omega) (by omega)
    · rename_i hv
      constructor
      · intro h; cases h
      · intro h; exact absurd (h a (Nat.le_refl _) (by omega)) hv

end Sys2Proof.Machine
end

