-- ==== Sys2Proof/Laws/State.lean ====
section
/-! SUPPORT. What each update of State does to each field: one lemma per field per update, so that no proof unfolds an
update. -/

namespace Sys2Proof.Machine

variable (s : State)

@[simp] theorem resetBlock_engine : (resetBlock s).engine = .empty := rfl
@[simp] theorem resetBlock_busy : (resetBlock s).busy = false := rfl
@[simp] theorem resetBlock_done : (resetBlock s).done = false := rfl
@[simp] theorem resetBlock_faultCode : (resetBlock s).faultCode = .none := rfl
@[simp] theorem resetBlock_faultInfo : (resetBlock s).faultInfo = 0 := rfl
@[simp] theorem resetBlock_ie : (resetBlock s).ie = false := rfl
@[simp] theorem resetBlock_srcAddr : (resetBlock s).srcAddr = 0 := rfl
@[simp] theorem resetBlock_ops : (resetBlock s).ops = State.reset.ops := rfl
@[simp] theorem resetBlock_res : (resetBlock s).res = State.reset.res := rfl
@[simp] theorem resetBlock_lat : (resetBlock s).lat = unspecifiedLatches s.era := rfl
@[simp] theorem resetBlock_tabW : (resetBlock s).tabW = Config.undefinedWidth s.era := rfl
@[simp] theorem resetBlock_tabH : (resetBlock s).tabH = Config.undefinedHeight s.era := rfl
@[simp] theorem resetBlock_src : (resetBlock s).src = [] := rfl
@[simp] theorem resetBlock_sum : (resetBlock s).sum = [] := rfl
@[simp] theorem resetBlock_nz : (resetBlock s).nz = [] := rfl
@[simp] theorem resetBlock_era : (resetBlock s).era = s.era + 1 := rfl
@[simp] theorem resetBlock_host : (resetBlock s).host = s.host := rfl

@[simp] theorem dropTables_engine : (dropTables s).engine = s.engine := rfl
@[simp] theorem dropTables_busy : (dropTables s).busy = s.busy := rfl
@[simp] theorem dropTables_done : (dropTables s).done = s.done := rfl
@[simp] theorem dropTables_faultCode : (dropTables s).faultCode = s.faultCode := rfl
@[simp] theorem dropTables_faultInfo : (dropTables s).faultInfo = s.faultInfo := rfl
@[simp] theorem dropTables_ie : (dropTables s).ie = s.ie := rfl
@[simp] theorem dropTables_srcAddr : (dropTables s).srcAddr = s.srcAddr := rfl
@[simp] theorem dropTables_ops : (dropTables s).ops = s.ops := rfl
@[simp] theorem dropTables_res : (dropTables s).res = s.res := rfl
@[simp] theorem dropTables_lat : (dropTables s).lat = s.lat := rfl
@[simp] theorem dropTables_tabW : (dropTables s).tabW = s.tabW := rfl
@[simp] theorem dropTables_tabH : (dropTables s).tabH = s.tabH := rfl
@[simp] theorem dropTables_src : (dropTables s).src = s.src := rfl
@[simp] theorem dropTables_sum : (dropTables s).sum = [] := rfl
@[simp] theorem dropTables_nz : (dropTables s).nz = [] := rfl
@[simp] theorem dropTables_era : (dropTables s).era = s.era + 1 := rfl
@[simp] theorem dropTables_host : (dropTables s).host = s.host := rfl

@[simp] theorem finishCommand_engine : (finishCommand s).engine = s.engine := rfl
@[simp] theorem finishCommand_busy : (finishCommand s).busy = false := rfl
@[simp] theorem finishCommand_done : (finishCommand s).done = true := rfl
@[simp] theorem finishCommand_faultCode : (finishCommand s).faultCode = s.faultCode := rfl
@[simp] theorem finishCommand_faultInfo : (finishCommand s).faultInfo = s.faultInfo := rfl
@[simp] theorem finishCommand_ie : (finishCommand s).ie = s.ie := rfl
@[simp] theorem finishCommand_srcAddr : (finishCommand s).srcAddr = s.srcAddr := rfl
@[simp] theorem finishCommand_ops : (finishCommand s).ops = s.ops := rfl
@[simp] theorem finishCommand_res : (finishCommand s).res = s.res := rfl
@[simp] theorem finishCommand_lat : (finishCommand s).lat = s.lat := rfl
@[simp] theorem finishCommand_tabW : (finishCommand s).tabW = s.tabW := rfl
@[simp] theorem finishCommand_tabH : (finishCommand s).tabH = s.tabH := rfl
@[simp] theorem finishCommand_src : (finishCommand s).src = s.src := rfl
@[simp] theorem finishCommand_sum : (finishCommand s).sum = s.sum := rfl
@[simp] theorem finishCommand_nz : (finishCommand s).nz = s.nz := rfl
@[simp] theorem finishCommand_era : (finishCommand s).era = s.era := rfl
@[simp] theorem finishCommand_host : (finishCommand s).host = s.host := rfl

@[simp] theorem latchCommand_engine (word : Word) : (latchCommand word s).engine = s.engine := rfl
@[simp] theorem latchCommand_busy (word : Word) : (latchCommand word s).busy = true := rfl
@[simp] theorem latchCommand_done (word : Word) : (latchCommand word s).done = false := rfl
@[simp] theorem latchCommand_faultCode (word : Word) : (latchCommand word s).faultCode = s.faultCode := rfl
@[simp] theorem latchCommand_faultInfo (word : Word) : (latchCommand word s).faultInfo = s.faultInfo := rfl
@[simp] theorem latchCommand_ie (word : Word) : (latchCommand word s).ie = s.ie := rfl
@[simp] theorem latchCommand_srcAddr (word : Word) : (latchCommand word s).srcAddr = s.srcAddr := rfl
@[simp] theorem latchCommand_ops (word : Word) : (latchCommand word s).ops = s.ops := rfl
@[simp] theorem latchCommand_res (word : Word) : (latchCommand word s).res = s.res := rfl
@[simp] theorem latchCommand_lat (word : Word) :
    (latchCommand word s).lat = ⟨word, s.ops.qX0, s.ops.qY0, s.ops.qX1, s.ops.qY1, s.ops.spanAddr, s.ops.spanLen⟩ := rfl
@[simp] theorem latchCommand_tabW (word : Word) : (latchCommand word s).tabW = s.tabW := rfl
@[simp] theorem latchCommand_tabH (word : Word) : (latchCommand word s).tabH = s.tabH := rfl
@[simp] theorem latchCommand_src (word : Word) : (latchCommand word s).src = s.src := rfl
@[simp] theorem latchCommand_sum (word : Word) : (latchCommand word s).sum = s.sum := rfl
@[simp] theorem latchCommand_nz (word : Word) : (latchCommand word s).nz = s.nz := rfl
@[simp] theorem latchCommand_era (word : Word) : (latchCommand word s).era = s.era := rfl
@[simp] theorem latchCommand_host (word : Word) : (latchCommand word s).host = s.host := rfl

@[simp] theorem storePixel_engine (i : Nat) (v : Byte) : (storePixel i v s).engine = s.engine := rfl
@[simp] theorem storePixel_busy (i : Nat) (v : Byte) : (storePixel i v s).busy = s.busy := rfl
@[simp] theorem storePixel_done (i : Nat) (v : Byte) : (storePixel i v s).done = s.done := rfl
@[simp] theorem storePixel_faultCode (i : Nat) (v : Byte) : (storePixel i v s).faultCode = s.faultCode := rfl
@[simp] theorem storePixel_faultInfo (i : Nat) (v : Byte) : (storePixel i v s).faultInfo = s.faultInfo := rfl
@[simp] theorem storePixel_ie (i : Nat) (v : Byte) : (storePixel i v s).ie = s.ie := rfl
@[simp] theorem storePixel_srcAddr (i : Nat) (v : Byte) : (storePixel i v s).srcAddr = s.srcAddr := rfl
@[simp] theorem storePixel_ops (i : Nat) (v : Byte) : (storePixel i v s).ops = s.ops := rfl
@[simp] theorem storePixel_res (i : Nat) (v : Byte) : (storePixel i v s).res = s.res := rfl
@[simp] theorem storePixel_lat (i : Nat) (v : Byte) : (storePixel i v s).lat = s.lat := rfl
@[simp] theorem storePixel_tabW (i : Nat) (v : Byte) : (storePixel i v s).tabW = s.tabW := rfl
@[simp] theorem storePixel_tabH (i : Nat) (v : Byte) : (storePixel i v s).tabH = s.tabH := rfl
@[simp] theorem storePixel_src (i : Nat) (v : Byte) : (storePixel i v s).src = Memory.insert i v s.src := rfl
@[simp] theorem storePixel_sum (i : Nat) (v : Byte) : (storePixel i v s).sum = s.sum := rfl
@[simp] theorem storePixel_nz (i : Nat) (v : Byte) : (storePixel i v s).nz = s.nz := rfl
@[simp] theorem storePixel_era (i : Nat) (v : Byte) : (storePixel i v s).era = s.era := rfl
@[simp] theorem storePixel_host (i : Nat) (v : Byte) : (storePixel i v s).host = s.host := rfl

@[simp] theorem setOperands_engine (f : OperandRegs → OperandRegs) : (setOperands f s).engine = s.engine := rfl
@[simp] theorem setOperands_busy (f : OperandRegs → OperandRegs) : (setOperands f s).busy = s.busy := rfl
@[simp] theorem setOperands_done (f : OperandRegs → OperandRegs) : (setOperands f s).done = s.done := rfl
@[simp] theorem setOperands_faultCode (f : OperandRegs → OperandRegs) :
    (setOperands f s).faultCode = s.faultCode := rfl
@[simp] theorem setOperands_faultInfo (f : OperandRegs → OperandRegs) :
    (setOperands f s).faultInfo = s.faultInfo := rfl
@[simp] theorem setOperands_ie (f : OperandRegs → OperandRegs) : (setOperands f s).ie = s.ie := rfl
@[simp] theorem setOperands_srcAddr (f : OperandRegs → OperandRegs) : (setOperands f s).srcAddr = s.srcAddr := rfl
@[simp] theorem setOperands_ops (f : OperandRegs → OperandRegs) : (setOperands f s).ops = f s.ops := rfl
@[simp] theorem setOperands_res (f : OperandRegs → OperandRegs) : (setOperands f s).res = s.res := rfl
@[simp] theorem setOperands_lat (f : OperandRegs → OperandRegs) : (setOperands f s).lat = s.lat := rfl
@[simp] theorem setOperands_tabW (f : OperandRegs → OperandRegs) : (setOperands f s).tabW = s.tabW := rfl
@[simp] theorem setOperands_tabH (f : OperandRegs → OperandRegs) : (setOperands f s).tabH = s.tabH := rfl
@[simp] theorem setOperands_src (f : OperandRegs → OperandRegs) : (setOperands f s).src = s.src := rfl
@[simp] theorem setOperands_sum (f : OperandRegs → OperandRegs) : (setOperands f s).sum = s.sum := rfl
@[simp] theorem setOperands_nz (f : OperandRegs → OperandRegs) : (setOperands f s).nz = s.nz := rfl
@[simp] theorem setOperands_era (f : OperandRegs → OperandRegs) : (setOperands f s).era = s.era := rfl
@[simp] theorem setOperands_host (f : OperandRegs → OperandRegs) : (setOperands f s).host = s.host := rfl

@[simp] theorem returnRead_engine (v : Word) : (returnRead v s).engine = s.engine := rfl
@[simp] theorem returnRead_busy (v : Word) : (returnRead v s).busy = s.busy := rfl
@[simp] theorem returnRead_done (v : Word) : (returnRead v s).done = s.done := rfl
@[simp] theorem returnRead_faultCode (v : Word) : (returnRead v s).faultCode = s.faultCode := rfl
@[simp] theorem returnRead_faultInfo (v : Word) : (returnRead v s).faultInfo = s.faultInfo := rfl
@[simp] theorem returnRead_ie (v : Word) : (returnRead v s).ie = s.ie := rfl
@[simp] theorem returnRead_srcAddr (v : Word) : (returnRead v s).srcAddr = s.srcAddr := rfl
@[simp] theorem returnRead_ops (v : Word) : (returnRead v s).ops = s.ops := rfl
@[simp] theorem returnRead_res (v : Word) : (returnRead v s).res = s.res := rfl
@[simp] theorem returnRead_lat (v : Word) : (returnRead v s).lat = s.lat := rfl
@[simp] theorem returnRead_tabW (v : Word) : (returnRead v s).tabW = s.tabW := rfl
@[simp] theorem returnRead_tabH (v : Word) : (returnRead v s).tabH = s.tabH := rfl
@[simp] theorem returnRead_src (v : Word) : (returnRead v s).src = s.src := rfl
@[simp] theorem returnRead_sum (v : Word) : (returnRead v s).sum = s.sum := rfl
@[simp] theorem returnRead_nz (v : Word) : (returnRead v s).nz = s.nz := rfl
@[simp] theorem returnRead_era (v : Word) : (returnRead v s).era = s.era := rfl
@[simp] theorem returnRead_host (v : Word) : (returnRead v s).host = { s.host with readData := v } := rfl

@[simp] theorem setRst_engine (b : Bool) : (setRst b s).engine = s.engine := rfl
@[simp] theorem setRst_busy (b : Bool) : (setRst b s).busy = s.busy := rfl
@[simp] theorem setRst_done (b : Bool) : (setRst b s).done = s.done := rfl
@[simp] theorem setRst_faultCode (b : Bool) : (setRst b s).faultCode = s.faultCode := rfl
@[simp] theorem setRst_faultInfo (b : Bool) : (setRst b s).faultInfo = s.faultInfo := rfl
@[simp] theorem setRst_ie (b : Bool) : (setRst b s).ie = s.ie := rfl
@[simp] theorem setRst_srcAddr (b : Bool) : (setRst b s).srcAddr = s.srcAddr := rfl
@[simp] theorem setRst_ops (b : Bool) : (setRst b s).ops = s.ops := rfl
@[simp] theorem setRst_res (b : Bool) : (setRst b s).res = s.res := rfl
@[simp] theorem setRst_lat (b : Bool) : (setRst b s).lat = s.lat := rfl
@[simp] theorem setRst_tabW (b : Bool) : (setRst b s).tabW = s.tabW := rfl
@[simp] theorem setRst_tabH (b : Bool) : (setRst b s).tabH = s.tabH := rfl
@[simp] theorem setRst_src (b : Bool) : (setRst b s).src = s.src := rfl
@[simp] theorem setRst_sum (b : Bool) : (setRst b s).sum = s.sum := rfl
@[simp] theorem setRst_nz (b : Bool) : (setRst b s).nz = s.nz := rfl
@[simp] theorem setRst_era (b : Bool) : (setRst b s).era = s.era := rfl
@[simp] theorem setRst_host (b : Bool) : (setRst b s).host = { s.host with rst := b } := rfl

@[simp] theorem writeU32_engine (v : Word) : (writeU32 v s).engine = s.engine := rfl
@[simp] theorem writeU32_busy (v : Word) : (writeU32 v s).busy = s.busy := rfl
@[simp] theorem writeU32_done (v : Word) : (writeU32 v s).done = s.done := rfl
@[simp] theorem writeU32_faultCode (v : Word) : (writeU32 v s).faultCode = s.faultCode := rfl
@[simp] theorem writeU32_faultInfo (v : Word) : (writeU32 v s).faultInfo = s.faultInfo := rfl
@[simp] theorem writeU32_ie (v : Word) : (writeU32 v s).ie = s.ie := rfl
@[simp] theorem writeU32_srcAddr (v : Word) : (writeU32 v s).srcAddr = s.srcAddr := rfl
@[simp] theorem writeU32_ops (v : Word) : (writeU32 v s).ops = s.ops := rfl
@[simp] theorem writeU32_res (v : Word) : (writeU32 v s).res = { s.res with u32 := v } := rfl
@[simp] theorem writeU32_lat (v : Word) : (writeU32 v s).lat = s.lat := rfl
@[simp] theorem writeU32_tabW (v : Word) : (writeU32 v s).tabW = s.tabW := rfl
@[simp] theorem writeU32_tabH (v : Word) : (writeU32 v s).tabH = s.tabH := rfl
@[simp] theorem writeU32_src (v : Word) : (writeU32 v s).src = s.src := rfl
@[simp] theorem writeU32_sum (v : Word) : (writeU32 v s).sum = s.sum := rfl
@[simp] theorem writeU32_nz (v : Word) : (writeU32 v s).nz = s.nz := rfl
@[simp] theorem writeU32_era (v : Word) : (writeU32 v s).era = s.era := rfl
@[simp] theorem writeU32_host (v : Word) : (writeU32 v s).host = s.host := rfl

@[simp] theorem writeF64_engine (v : Bits64) : (writeF64 v s).engine = s.engine := rfl
@[simp] theorem writeF64_busy (v : Bits64) : (writeF64 v s).busy = s.busy := rfl
@[simp] theorem writeF64_done (v : Bits64) : (writeF64 v s).done = s.done := rfl
@[simp] theorem writeF64_faultCode (v : Bits64) : (writeF64 v s).faultCode = s.faultCode := rfl
@[simp] theorem writeF64_faultInfo (v : Bits64) : (writeF64 v s).faultInfo = s.faultInfo := rfl
@[simp] theorem writeF64_ie (v : Bits64) : (writeF64 v s).ie = s.ie := rfl
@[simp] theorem writeF64_srcAddr (v : Bits64) : (writeF64 v s).srcAddr = s.srcAddr := rfl
@[simp] theorem writeF64_ops (v : Bits64) : (writeF64 v s).ops = s.ops := rfl
@[simp] theorem writeF64_res (v : Bits64) :
    (writeF64 v s).res = { s.res with f64Lo := v.extractLsb' 0 32, f64Hi := v.extractLsb' 32 32 } := rfl
@[simp] theorem writeF64_lat (v : Bits64) : (writeF64 v s).lat = s.lat := rfl
@[simp] theorem writeF64_tabW (v : Bits64) : (writeF64 v s).tabW = s.tabW := rfl
@[simp] theorem writeF64_tabH (v : Bits64) : (writeF64 v s).tabH = s.tabH := rfl
@[simp] theorem writeF64_src (v : Bits64) : (writeF64 v s).src = s.src := rfl
@[simp] theorem writeF64_sum (v : Bits64) : (writeF64 v s).sum = s.sum := rfl
@[simp] theorem writeF64_nz (v : Bits64) : (writeF64 v s).nz = s.nz := rfl
@[simp] theorem writeF64_era (v : Bits64) : (writeF64 v s).era = s.era := rfl
@[simp] theorem writeF64_host (v : Bits64) : (writeF64 v s).host = s.host := rfl

@[simp] theorem writeRect_engine (c : Rect) : (writeRect c s).engine = s.engine := rfl
@[simp] theorem writeRect_busy (c : Rect) : (writeRect c s).busy = s.busy := rfl
@[simp] theorem writeRect_done (c : Rect) : (writeRect c s).done = s.done := rfl
@[simp] theorem writeRect_faultCode (c : Rect) : (writeRect c s).faultCode = s.faultCode := rfl
@[simp] theorem writeRect_faultInfo (c : Rect) : (writeRect c s).faultInfo = s.faultInfo := rfl
@[simp] theorem writeRect_ie (c : Rect) : (writeRect c s).ie = s.ie := rfl
@[simp] theorem writeRect_srcAddr (c : Rect) : (writeRect c s).srcAddr = s.srcAddr := rfl
@[simp] theorem writeRect_ops (c : Rect) : (writeRect c s).ops = s.ops := rfl
@[simp] theorem writeRect_res (c : Rect) :
    (writeRect c s).res = { s.res with rectX0 := asU32 c.x0, rectY0 := asU32 c.y0, rectX1 := asU32 c.x1, rectY1 := asU32 c.y1 } := rfl
@[simp] theorem writeRect_lat (c : Rect) : (writeRect c s).lat = s.lat := rfl
@[simp] theorem writeRect_tabW (c : Rect) : (writeRect c s).tabW = s.tabW := rfl
@[simp] theorem writeRect_tabH (c : Rect) : (writeRect c s).tabH = s.tabH := rfl
@[simp] theorem writeRect_src (c : Rect) : (writeRect c s).src = s.src := rfl
@[simp] theorem writeRect_sum (c : Rect) : (writeRect c s).sum = s.sum := rfl
@[simp] theorem writeRect_nz (c : Rect) : (writeRect c s).nz = s.nz := rfl
@[simp] theorem writeRect_era (c : Rect) : (writeRect c s).era = s.era := rfl
@[simp] theorem writeRect_host (c : Rect) : (writeRect c s).host = s.host := rfl

@[simp] theorem raiseFault_engine (c : FaultCode) (w : Word) : (raiseFault c w s).engine = .faulted := rfl
@[simp] theorem raiseFault_busy (c : FaultCode) (w : Word) : (raiseFault c w s).busy = false := rfl
@[simp] theorem raiseFault_done (c : FaultCode) (w : Word) : (raiseFault c w s).done = s.done := by
  unfold raiseFault; split <;> rfl
@[simp] theorem raiseFault_faultCode (c : FaultCode) (w : Word) : (raiseFault c w s).faultCode = c := rfl
@[simp] theorem raiseFault_faultInfo (c : FaultCode) (w : Word) : (raiseFault c w s).faultInfo = w := rfl
@[simp] theorem raiseFault_ie (c : FaultCode) (w : Word) : (raiseFault c w s).ie = s.ie := by
  unfold raiseFault; split <;> rfl
@[simp] theorem raiseFault_srcAddr (c : FaultCode) (w : Word) : (raiseFault c w s).srcAddr = s.srcAddr := by
  unfold raiseFault; split <;> rfl
@[simp] theorem raiseFault_ops (c : FaultCode) (w : Word) : (raiseFault c w s).ops = s.ops := by
  unfold raiseFault; split <;> rfl
@[simp] theorem raiseFault_res (c : FaultCode) (w : Word) : (raiseFault c w s).res = s.res := by
  unfold raiseFault; split <;> rfl
@[simp] theorem raiseFault_lat (c : FaultCode) (w : Word) : (raiseFault c w s).lat = s.lat := by
  unfold raiseFault; split <;> rfl
@[simp] theorem raiseFault_tabW (c : FaultCode) (w : Word) : (raiseFault c w s).tabW = s.tabW := by
  unfold raiseFault; split <;> rfl
@[simp] theorem raiseFault_tabH (c : FaultCode) (w : Word) : (raiseFault c w s).tabH = s.tabH := by
  unfold raiseFault; split <;> rfl
@[simp] theorem raiseFault_src (c : FaultCode) (w : Word) : (raiseFault c w s).src = s.src := by
  unfold raiseFault; split <;> rfl
@[simp] theorem raiseFault_sum (c : FaultCode) (w : Word) : (raiseFault c w s).sum = if s.engine = .building then [] else s.sum := by
  unfold raiseFault; split <;> rfl
@[simp] theorem raiseFault_nz (c : FaultCode) (w : Word) : (raiseFault c w s).nz = if s.engine = .building then [] else s.nz := by
  unfold raiseFault; split <;> rfl
@[simp] theorem raiseFault_era (c : FaultCode) (w : Word) : (raiseFault c w s).era = if s.engine = .building then s.era + 1 else s.era := by
  unfold raiseFault; split <;> rfl
@[simp] theorem raiseFault_host (c : FaultCode) (w : Word) : (raiseFault c w s).host = s.host := by
  unfold raiseFault; split <;> rfl

end Sys2Proof.Machine
end

