-- ==== Sys2Proof/Laws/Ops.lean ====
section
/-! SUPPORT. What each shared operation can do, said once: command acceptance (45_control.md R260), the filters of the
register writes (R264 to R273) and the agents' turns (R261; 20_memory.md R94). -/

namespace Sys2Proof.Machine

/-! ## Command acceptance -/

section Acceptance

variable {word : Word} {check : State → Option (FaultCode × Word)} {start : State → State} {s : State}

theorem acceptCommand_faulted (h : s.engine = .faulted) : acceptCommand word check start s = s := by
  simp [acceptCommand, h]

theorem acceptCommand_busy (h : s.engine ≠ .faulted) (hb : s.busy = true) :
    acceptCommand word check start s = raiseFault .busy 0x028 s := by
  simp [acceptCommand, h, hb]

theorem acceptCommand_rejected {code : FaultCode} {info : Word} (h : s.engine ≠ .faulted) (hb : s.busy = false)
    (hc : check s = some (code, info)) : acceptCommand word check start s = raiseFault code info s := by
  simp [acceptCommand, h, hb, hc]

theorem acceptCommand_accepted (h : s.engine ≠ .faulted) (hb : s.busy = false) (hc : check s = none) :
    acceptCommand word check start s = latchCommand word (start s) := by
  simp [acceptCommand, h, hb, hc]

/-- Everything acceptance can do (R260). -/
theorem acceptCommand_cases (word : Word) (check : State → Option (FaultCode × Word)) (start : State → State)
    (s : State) :
    (s.engine = .faulted ∧ acceptCommand word check start s = s) ∨
    (s.engine ≠ .faulted ∧ ∃ code info, code ≠ FaultCode.none ∧
      acceptCommand word check start s = raiseFault code info s) ∨
    (s.engine ≠ .faulted ∧ s.busy = false ∧ check s = none ∧
      acceptCommand word check start s = latchCommand word (start s)) ∨
    (s.engine ≠ .faulted ∧ s.busy = false ∧ ∃ info, check s = some (.none, info)) := by
  by_cases hf : s.engine = .faulted
  · exact .inl ⟨hf, acceptCommand_faulted hf⟩
  · cases hb : s.busy with
    | true => exact .inr (.inl ⟨hf, _, _, by decide, acceptCommand_busy hf hb⟩)
    | false =>
      cases hc : check s with
      | none => exact .inr (.inr (.inl ⟨hf, rfl, rfl, acceptCommand_accepted hf hb hc⟩))
      | some p =>
        obtain ⟨code, info⟩ := p
        by_cases hn : code = .none
        · subst hn; exact .inr (.inr (.inr ⟨hf, rfl, info, rfl⟩))
        · exact .inr (.inl ⟨hf, code, info, hn, acceptCommand_rejected hf hb hc⟩)

end Acceptance

/-! ## Register-write filters -/

section Filters

variable {off : Word} {act : State → State} {s : State}

@[simp] theorem unlessFaulted_faulted (h : s.engine = .faulted) : unlessFaulted act s = s := by
  simp [unlessFaulted, h]

@[simp] theorem unlessFaulted_running (h : s.engine ≠ .faulted) : unlessFaulted act s = act s := by
  simp [unlessFaulted, h]

@[simp] theorem unlessBusy_busy (h : s.busy = true) : unlessBusy off act s = raiseFault .busy off s := by
  simp [unlessBusy, h]

@[simp] theorem unlessBusy_idle (h : s.busy = false) : unlessBusy off act s = act s := by
  simp [unlessBusy, h]

@[simp] theorem unlessReady_ready (h : s.engine = .ready) : unlessReady off act s = raiseFault .immutable off s := by
  simp [unlessReady, h]

@[simp] theorem unlessReady_other (h : s.engine ≠ .ready) : unlessReady off act s = act s := by
  simp [unlessReady, h]

end Filters

/-! ## The agents -/

section Agents

variable {s t : State}

/-- The ENGINE's turn either does nothing or completes the pending command (R261). -/
theorem engineTurn_cases (h : engineTurn s = .next t) :
    (engineEnabled s = false ∧ t = s) ∨
    (engineEnabled s = true ∧ ∃ c, pendingCommand s = some c ∧ t = finishCommand (completeCommand c s)) := by
  unfold engineTurn at h
  split at h
  · rename_i he
    split at h
    · rename_i c hc
      cases h
      exact .inr ⟨he, c, hc, rfl⟩
    · cases h
  · rename_i he
    cases h
    exact .inl ⟨by simpa using he, rfl⟩

/-- A pending command completes (R261). -/
theorem engineTurn_of_pending {c : Command} (he : engineEnabled s = true) (hc : s.lat.cmd = commandWord c) :
    engineTurn s = .next (finishCommand (completeCommand c s)) := by
  have : pendingCommand s = some c := by rw [pendingCommand, hc, opcodeCommand_commandWord]
  simp [engineTurn, he, this]

theorem engineEnabled_iff :
    engineEnabled s = true ↔ s.busy = true ∧ s.engine ≠ .faulted ∧ s.host.rst = false := by
  simp [engineEnabled, and_assoc]

/-- No instruction stops the model: every meaning answers a next state. -/
theorem exec_isNext (i : Instr) (s : State) : ∃ t, exec i s = .next t := by
  cases i <;> exact ⟨_, rfl⟩

/-- The HOST's turn: ignored under reset, the meaning of the decoded instruction, or an illegal command word. -/
theorem hostTurn_cases {x : BusTxn} (h : hostTurn x s = .next t) :
    (s.host.rst = true ∧ t = ignoredAccess x s) ∨
    (s.host.rst = false ∧ ∃ i, decode x = .ok i ∧ exec i s = .next t) ∨
    (s.host.rst = false ∧ ∃ w, decode x = .error (.illegalCommand w) ∧ t = acceptIllegal w s) := by
  unfold hostTurn at h
  split at h
  · rename_i hr
    cases h
    exact .inl ⟨hr, rfl⟩
  · rename_i hr
    have hr : s.host.rst = false := by simpa using hr
    split at h
    · rename_i i hi
      exact .inr (.inl ⟨hr, i, hi, h⟩)
    · rename_i w hw
      cases h
      exact .inr (.inr ⟨hr, w, hw, rfl⟩)

/-- Take the first input off the script. -/
theorem step_nil (h : s.host.script = []) : step s = engineTurn s := by
  simp [step, nextStep, h]

theorem step_cons {e : Input} {rest : List Input} (h : s.host.script = e :: rest) :
    step s = takeInput e { s with host := { s.host with script := rest } } := by
  simp [step, nextStep, h]

end Agents

end Sys2Proof.Machine
end

