-- ==== Sys2Proof/Laws/Checks.lean ====
section
/-! SUPPORT. What the acceptance checks of the commands say when they pass and when they fail (43_construction.md R191;
44_query.md R226; 42_lane_primitives.md R172; 60_exceptions.md R305, R306), and the pending command (45_control.md
R261). -/

namespace Sys2Proof.Machine

variable {s : State} {word info : Word} {code : FaultCode}

theorem commandWord_injective {c d : Command} (h : commandWord c = commandWord d) : c = d := by
  have := opcodeCommand_commandWord c
  rw [h, opcodeCommand_commandWord] at this
  exact (Option.some.inj this).symm

/-- A pending command completes in the ENGINE's turn (R261). -/
theorem engineTurn_pending {c : Command} (h : Pending c s) :
    engineTurn s = .next (finishCommand (completeCommand c s)) :=
  engineTurn_of_pending (engineEnabled_iff.mpr ⟨h.1, h.2.1, h.2.2.1⟩) h.2.2.2

theorem Idle_not_faulted (h : Idle s) : s.engine ≠ .faulted := by
  rcases h.1 with h | h <;> simp [h]

theorem needTables_none : needTables word s = none ↔ s.engine ≠ .empty := by
  unfold needTables; split <;> simp_all

theorem needNoTables_none : needNoTables word s = none ↔ s.engine ≠ .ready := by
  unfold needNoTables; split <;> simp_all

theorem needTables_code (h : needTables word s = some (code, info)) : code = .notReady ∧ info = word := by
  unfold needTables at h; split at h <;> simp_all

theorem needNoTables_code (h : needNoTables word s = some (code, info)) : code = .immutable ∧ info = word := by
  unfold needNoTables at h; split at h <;> simp_all

theorem indexCheck_code (h : indexCheck word s = some (code, info)) : code = .index ∧ info = word := by
  unfold indexCheck at h; dsimp only at h; split at h <;> simp_all

/-- A table read that passes its check latches a cell of the table (R226). -/
theorem indexCheck_none (h : indexCheck word s = none) (w : Word) : CellInTable (latchCommand w s) := by
  unfold indexCheck at h; dsimp only at h; split at h
  · rename_i g
    exact ⟨g.1, g.2.1, g.2.2.1, g.2.2.2⟩
  · cases h

theorem spanCheck_code (h : spanCheck word s = some (code, info)) : code ≠ .none := by
  unfold spanCheck at h; dsimp only at h; split at h
  · cases h; decide
  · split at h <;> cases h; decide

/-- A span command that passes its checks latches a wholly written span (R172). -/
theorem spanCheck_none (h : spanCheck word s = none) (w : Word) : SpanWritten (latchCommand w s) := by
  unfold spanCheck at h; dsimp only at h; split at h
  · cases h
  · rename_i g
    split at h
    · cases h
    · rename_i h3
      rw [firstUnwritten_none] at h3
      exact ⟨Nat.le_of_not_lt g, fun i a b => h3 i a b⟩

theorem buildCheck_code (h : buildCheck s = some (code, info)) : code ≠ .none := by
  unfold buildCheck at h; dsimp only at h; split at h
  · cases h; decide
  · split at h
    · cases h; decide
    · split at h <;> cases h; decide

/-- BUILD's checks pass exactly when the dimensions are legal and every pixel is written (R191). -/
theorem buildCheck_none (h : buildCheck s = none) :
    0 < asI32 s.ops.xwidth ∧ 0 < asI32 s.ops.yheight ∧ asI32 s.ops.xwidth * asI32 s.ops.yheight ≤ Config.maxCells ∧
      ∀ i, i < (asI32 s.ops.xwidth * asI32 s.ops.yheight).toNat → srcValid s i = true := by
  unfold buildCheck at h; dsimp only at h; split at h
  · cases h
  · split at h
    · cases h
    · split at h
      · cases h
      · rename_i h1 h2 _ h3
        rw [firstUnwritten_none] at h3
        exact ⟨by omega, by omega, by omega, fun i hi => h3 i (Nat.zero_le _) (by omega)⟩

end Sys2Proof.Machine
end

