-- ==== Sys2Proof/Laws/Float.lean ====
section
/-! SUPPORT. The laws of the two integer steps of a rounding (00_scope.md R17). -/

namespace Sys2Proof.Machine

theorem scaleRatio_pos {n d : Nat} {e : Int} (hd : 0 < d) : 0 < (scaleRatio n d e).2 := by
  unfold scaleRatio; split
  · positivity
  · exact hd
/-- Scaling divides the ratio by the power of two. -/
theorem scaleRatio_value {n d : Nat} {e : Int} (hd : 0 < d) :
    ((scaleRatio n d e).1 : ℚ) / (scaleRatio n d e).2 = (n / d : ℚ) / 2 ^ e := by
  unfold scaleRatio; split
  · rename_i h
    have : (2:ℚ)^e = 2^e.toNat := by rw [← zpow_natCast, Int.toNat_of_nonneg h]
    rw [this]; push_cast; rw [div_div]
  · rename_i h
    have : (2:ℚ)^e = (2^(-e).toNat)⁻¹ := by rw [← zpow_natCast, Int.toNat_of_nonneg (by omega), zpow_neg, inv_inv]
    rw [this]; push_cast; field_simp
/-- The natural is a nearest integer to the ratio, and even where another is as near. -/
theorem divNearestEven_nearest {n d : Nat} (hd : 0 < d) (k : ℤ) :
    |(n / d : ℚ) - divNearestEven n d| ≤ |(n / d : ℚ) - k| ∧
    (|(n / d : ℚ) - divNearestEven n d| = |(n / d : ℚ) - k| →
      k = divNearestEven n d ∨ divNearestEven n d % 2 = 0) := by
  set q := n / d with hq
  set r := n % d with hr
  have e : n = d * q + r := (Nat.div_add_mod n d).symm
  have hrd : r < d := Nat.mod_lt _ hd
  have hx : (n / d : ℚ) = q + (r : ℚ) / d := by
    have hd0 : (d : ℚ) ≠ 0 := by positivity
    rw [e]; push_cast; field_simp
  have hd' : (0:ℚ) < d := by exact_mod_cast hd
  have t0 : (0:ℚ) ≤ (r : ℚ) / d := by positivity
  have t1 : (r : ℚ) / d < 1 := by rw [div_lt_one hd']; exact_mod_cast hrd
  set t := (r : ℚ) / d with ht
  have hk : k ≤ q ∨ q + 1 ≤ k := by omega
  have up : d < 2 * r ↔ 1 / 2 < t := by
    rw [ht, lt_div_iff₀ hd']; constructor
    · intro h; have : (d:ℚ) < 2 * r := by exact_mod_cast h
      linarith
    · intro h; have : (d:ℚ) < 2 * r := by linarith
      exact_mod_cast this
  have eqv : 2 * r = d ↔ t = 1 / 2 := by
    rw [ht, div_eq_iff hd'.ne']; constructor
    · intro h; have : 2 * (r:ℚ) = d := by exact_mod_cast h
      linarith
    · intro h; have : 2 * (r:ℚ) = d := by linarith
      exact_mod_cast this
  rw [hx]
  unfold divNearestEven
  rw [← hq, ← hr]
  have kd : ∀ k : ℤ, k ≤ q → t ≤ |(q:ℚ) + t - k| ∧ (t = |(q:ℚ) + t - k| → k = q) := by
    intro k h
    have : (k : ℚ) ≤ q := by exact_mod_cast h
    rw [abs_of_nonneg (by linarith)]
    refine ⟨by linarith, fun h => ?_⟩
    have : (k:ℚ) = q := by linarith
    exact_mod_cast this
  have ku : ∀ k : ℤ, (q:ℤ) + 1 ≤ k → 1 - t ≤ |(q:ℚ) + t - k| ∧ (1 - t = |(q:ℚ) + t - k| → k = q + 1) := by
    intro k h
    have : (q : ℚ) + 1 ≤ k := by exact_mod_cast h
    rw [abs_of_nonpos (by linarith)]
    refine ⟨by linarith, fun h => ?_⟩
    have : (k:ℚ) = q + 1 := by linarith
    exact_mod_cast this
  split
  · rename_i h
    have h2 : 1/2 ≤ t := by
      simp only [Bool.or_eq_true, decide_eq_true_eq, Bool.and_eq_true, beq_iff_eq] at h
      rcases h with h | h
      · exact le_of_lt (up.mp h)
      · exact le_of_eq (eqv.mp h.1).symm
    have e1 : |(q:ℚ) + t - ((q+1 : ℕ) : ℚ)| = 1 - t := by
      push_cast; rw [abs_of_nonpos (by linarith)]; ring
    rw [e1]
    rcases hk with hk | hk
    · obtain ⟨a, b⟩ := kd k hk
      refine ⟨by linarith, fun heq => ?_⟩
      right
      have ht2 : t = 1/2 := by linarith
      simp only [Bool.or_eq_true, decide_eq_true_eq, Bool.and_eq_true, beq_iff_eq] at h
      rcases h with h | h
      · have := up.mp h; linarith
      · omega
    · obtain ⟨a, b⟩ := ku k hk
      exact ⟨a, fun h => .inl (by have := b h; push_cast; omega)⟩
  · rename_i h
    simp only [Bool.or_eq_true, decide_eq_true_eq, Bool.and_eq_true, beq_iff_eq, not_or, not_and] at h
    have h2 : t ≤ 1/2 := by by_contra hc; exact h.1 (up.mpr (by linarith))
    have e1 : |(q:ℚ) + t - (q : ℚ)| = t := by rw [abs_of_nonneg (by linarith)]; ring
    rw [e1]
    rcases hk with hk | hk
    · obtain ⟨a, b⟩ := kd k hk
      exact ⟨a, fun h => .inl (b h)⟩
    · obtain ⟨a, b⟩ := ku k hk
      refine ⟨by linarith, fun heq => ?_⟩
      right
      have : t = 1/2 := by linarith
      have := h.2 (eqv.mpr this)
      omega

end Sys2Proof.Machine
end

