-- ==== Sys2Proof/Laws/Tables.lean ====
section
/-! SUPPORT. The laws of the span sums and of the table recurrence (42_lane_primitives.md R170; 43_construction.md R193). -/

namespace Sys2Proof.Machine

@[simp] theorem sumRange_zero (f : Nat → Word) (a : Nat) : sumRange f 0 a = 0 := rfl

theorem sumRange_succ (f : Nat → Word) (n a : Nat) : sumRange f (n + 1) a = f a + sumRange f n (a + 1) := rfl

/-- A range splits anywhere. -/
theorem sumRange_add (f : Nat → Word) (m n a : Nat) :
    sumRange f (m + n) a = sumRange f m a + sumRange f n (a + m) := by
  induction m generalizing a with
  | zero => simp
  | succ m ih =>
    rw [Nat.add_right_comm, sumRange_succ, sumRange_succ, ih, BitVec.add_assoc, Nat.add_assoc, Nat.add_comm 1 m]

/-- The last cell of a range can be taken off. -/
theorem sumRange_succ_last (f : Nat → Word) (n a : Nat) : sumRange f (n + 1) a = sumRange f n a + f (a + n) := by
  rw [sumRange_add]; simp [sumRange_succ]

/-- A range sum as the exact sum of naturals modulo 2^32. -/
theorem toNat_sumRange (f : Nat → Word) (n a : Nat) :
    (sumRange f n a).toNat = (∑ i ∈ Finset.range n, (f (a + i)).toNat) % 2 ^ 32 := by
  induction n with
  | zero => rfl
  | succ n ih => rw [sumRange_succ_last, Finset.sum_range_succ, BitVec.toNat_add, ih, Nat.mod_add_mod]

@[simp] theorem length_scanRow (val above : Nat → Word) (n x : Nat) (acc : Word) :
    (scanRow val above n x acc).length = n := by
  induction n generalizing x acc with
  | zero => rfl
  | succ n ih => simp [scanRow, ih]

/-- Cell `k` of a row is the running row-local prefix through column `x + k` plus the cell above (R193). -/
theorem getElem?_scanRow (val above : Nat → Word) (n x k : Nat) (acc : Word) (hk : k < n) :
    (scanRow val above n x acc)[k]? = some (acc + sumRange val (k + 1) x + above (x + k)) := by
  induction n generalizing x k acc with
  | zero => omega
  | succ n ih =>
    cases k with
    | zero => simp [scanRow, sumRange_succ]
    | succ k =>
      rw [scanRow, List.getElem?_cons_succ, ih _ _ _ (by omega)]
      rw [sumRange_succ val (k + 1), ← BitVec.add_assoc, Nat.add_assoc, Nat.add_comm 1 k]

/-- A row can be computed in two parts, the second continuing the prefix of the first (R196). -/
theorem scanRow_add (val above : Nat → Word) (m n x : Nat) (acc : Word) :
    scanRow val above (m + n) x acc =
      scanRow val above m x acc ++ scanRow val above n (x + m) (acc + sumRange val m x) := by
  induction m generalizing x acc with
  | zero => simp [scanRow]
  | succ m ih =>
    rw [Nat.add_right_comm, scanRow, ih, scanRow, sumRange_succ, List.cons_append, ← BitVec.add_assoc acc,
      Nat.add_assoc x 1 m, Nat.add_comm 1 m]

/-- What the row loop leaves: the rows already there, then each row computed from the row above it in the result. -/
theorem buildRows_spec {w : Nat} {row : Nat → (Nat → Word) → List Word} (hrow : ∀ y above, (row y above).length = w) :
    ∀ (h y : Nat) (tbl : List Word), tbl.length = y * w →
      (buildRows w row h y tbl).length = (y + h) * w ∧
      (∀ i, i < y * w → (buildRows w row h y tbl)[i]? = tbl[i]?) ∧
      ∀ y', y ≤ y' → y' < y + h → ∃ above : Nat → Word,
        (∀ x, x < w → above x = if y' = 0 then 0 else (buildRows w row h y tbl).getD ((y' - 1) * w + x) 0) ∧
        ∀ x, x < w → (buildRows w row h y tbl)[y' * w + x]? = (row y' above)[x]? := by
  intro h
  induction h with
  | zero =>
    intro y tbl hl
    refine ⟨by simpa [buildRows] using hl, fun i _ => rfl, fun y' h1 h2 => by omega⟩
  | succ h ih =>
    intro y tbl hl
    let above : Nat → Word := fun x => if y = 0 then 0 else tbl.getD ((y - 1) * w + x) 0
    have hb : buildRows w row (h + 1) y tbl = buildRows w row h (y + 1) (tbl ++ row y above) := rfl
    have hl' : (tbl ++ row y above).length = (y + 1) * w := by
      rw [List.length_append, hl, hrow, Nat.succ_mul]
    obtain ⟨i1, i2, i3⟩ := ih (y + 1) (tbl ++ row y above) hl'
    have hw : (y + 1) * w = y * w + w := Nat.succ_mul y w
    have old : ∀ i, i < y * w → (buildRows w row (h + 1) y tbl)[i]? = tbl[i]? := by
      intro i hi
      rw [hb, i2 i (by omega), List.getElem?_append_left (by omega)]
    refine ⟨by rw [hb, i1]; congr 1; omega, old, fun y' h1 h2 => ?_⟩
    by_cases hy : y' = y
    · subst hy
      refine ⟨above, fun x hx => ?_, fun x hx => ?_⟩
      · show (if y' = 0 then 0 else _) = _
        split
        · rfl
        · rename_i h0
          have : (y' - 1) * w + x < y' * w := by
            obtain ⟨k, rfl⟩ : ∃ k, y' = k + 1 := ⟨y' - 1, by omega⟩
            rw [Nat.add_sub_cancel, Nat.succ_mul]; omega
          simp only [List.getD_eq_getElem?_getD, old _ this]
      · rw [hb, i2 _ (by omega), List.getElem?_append_right (by omega), hl]
        congr 1; omega
    · rw [hb]
      exact i3 y' (by omega) (by omega)

@[simp] theorem length_scalarTable (unit : Byte → Word) (cell : Nat → Byte) (w h : Nat) :
    (scalarTable unit cell w h).length = h * w := by
  have := (buildRows_spec (row := fun y above => scanRow (fun x => unit (cell (y * w + x))) above w 0 0)
    (fun _ _ => length_scanRow _ _ _ _ _) h 0 [] (by simp)).1
  simpa [scalarTable] using this

/-- The recurrence of R193: a cell is the row-local prefix plus the cell above, which is 0 for row 0. -/
theorem scalarTable_cell (unit : Byte → Word) (cell : Nat → Byte) {w h x y : Nat} (hx : x < w) (hy : y < h) :
    (scalarTable unit cell w h)[y * w + x]? =
      some (sumRange (fun x => unit (cell (y * w + x))) (x + 1) 0 +
        if y = 0 then 0 else (scalarTable unit cell w h).getD ((y - 1) * w + x) 0) := by
  obtain ⟨above, ha, hc⟩ := (buildRows_spec
    (row := fun y above => scanRow (fun x => unit (cell (y * w + x))) above w 0 0)
    (fun _ _ => length_scanRow _ _ _ _ _) h 0 [] (by simp)).2.2 y (Nat.zero_le _) (by omega)
  have hc := hc x hx
  rw [getElem?_scanRow _ _ _ _ _ _ hx] at hc
  rw [Nat.zero_add, show ∀ a : Word, 0 + a = a from BitVec.zero_add] at hc
  rw [scalarTable, hc, ha x hx]

end Sys2Proof.Machine
end

