-- ==== Sys2Proof/Tests/Slice0.lean ====
section
/-! SUPPORT. The model's own tests. Every expected value is written out from spec/ (the encoding tables of 30_encoding.md
and the vectors of 95_test_vectors.md, named at each test); none is the model's own answer. The `witness_…` theorems show
for each statement of Certificates/Slice0/Obligations.lean that its hypotheses can be met. -/

namespace Sys2Proof.Tests

open Sys2Proof Sys2Proof.Machine

/-! ## States -/

/-- The state an outcome leads to. -/
def nextOf : Host.Outcome State Fault Refusal → Option State
  | .next s => some s
  | .fault _ => none
  | .refused _ => none

/-- Buffer B1 of 95_test_vectors.md section 2.4 (R203), loaded in EMPTY. -/
def loaded : State :=
  { State.reset with
    srcAddr := 6
    ops := { State.reset.ops with xwidth := 3, yheight := 2 }
    src := Memory.ofListFrom 0 [1, 0, 2, 3, 4, 0] }

/-- The tables of R203, written out. -/
def ready : State :=
  { loaded with
    engine := .ready
    done := true
    tabW := 3
    tabH := 2
    sum := Memory.ofListFrom 0 [1, 1, 3, 4, 8, 10]
    nz := Memory.ofListFrom 0 [1, 1, 2, 2, 3, 4] }

/-- `ready` with the given corners and the span [0, 6). -/
def withQuery (x0 y0 x1 y1 : Word) (s : State) : State :=
  { s with ops := { s.ops with qX0 := x0, qY0 := y0, qX1 := x1, qY1 := y1, spanAddr := 0, spanLen := 6 } }

/-- `c` accepted with the corners (1, 0) and (2, 1). -/
def pending (c : Command) : State := latchCommand (commandWord c) (withQuery 1 0 2 1 ready)

/-- The BUILD of `loaded`, accepted. -/
def building : State := latchCommand (commandWord .build) (startBuild loaded)

/-- EMPTY and idle with SRC_ADDR = `a`. -/
def atSource (a : Word) : State := { State.reset with srcAddr := a }

/-- EMPTY and idle with the dimensions `w` and `h` and the pixel of index 2 unwritten. -/
def sized (w h : Word) : State :=
  { loaded with src := [(0, 1), (1, 2), (3, 4)], ops := { loaded.ops with xwidth := w, yheight := h } }

/-- `loaded` with a span of `n` cells from `a`. -/
def spanning (a n : Word) : State := { loaded with ops := { loaded.ops with spanAddr := a, spanLen := n } }

/-- A block that took FAULT_IMMUTABLE on `CMD BUILD` in READY (section 2.8). -/
def faulted : State := raiseFault .immutable 1 ready

/-- EMPTY with a NOP pending. -/
def busyEmpty : State := latchCommand (commandWord .nop) State.reset

/-- The script of one input. -/
def withInput (e : Input) (s : State) : State := { s with host := { s.host with script := [e] } }

/-- All 2^24 cells written with 255 (B6). -/
def full : State := { State.reset with src := Memory.ofListFrom 0 (List.replicate (2 ^ 24) 255) }

/-! ## Well-formedness, one ill-formed term for each check -/

theorem test_wellFormed_refuses_write_at_a_named_offset : (Instr.wrRoOrReserved 0x014 0).wellFormed = false := by decide
theorem test_wellFormed_refuses_misaligned_write : (Instr.wrRoOrReserved 0x045 0).wellFormed = false := by decide
theorem test_wellFormed_refuses_legal_access_as_malformed :
    (Instr.busMalformed .read 0x00C 4).wellFormed = false := by decide
theorem test_wellFormed_refuses_misaligned_read : (Instr.rd 0x002).wellFormed = false := by decide

/-! ## Decoding: words written out from R111 to R114 -/

theorem test_decode_commands :
    decode (.write 0b000000101000 4 0b00000000000000000000000000000000) = .ok .nop ∧
    decode (.write 0b000000101000 4 0b00000000000000000000000000000001) = .ok .build ∧
    decode (.write 0b000000101000 4 0b00000000000000000000000000000010) = .ok .clear ∧
    decode (.write 0b000000101000 4 0b00000000000000000000000000010000) = .ok .qsum ∧
    decode (.write 0b000000101000 4 0b00000000000000000000000000010001) = .ok .qavg ∧
    decode (.write 0b000000101000 4 0b00000000000000000000000000010010) = .ok .qnzc ∧
    decode (.write 0b000000101000 4 0b00000000000000000000000000010011) = .ok .qnzavg ∧
    decode (.write 0b000000101000 4 0b00000000000000000000000000100000) = .ok .trdSum ∧
    decode (.write 0b000000101000 4 0b00000000000000000000000000100001) = .ok .trdNz ∧
    decode (.write 0b000000101000 4 0b00000000000000000000000000110000) = .ok .spanSum ∧
    decode (.write 0b000000101000 4 0b00000000000000000000000000110001) = .ok .spanNzc := by decide

theorem test_decode_writes :
    decode (.write 0b000000001000 4 3) = .ok (.wrCtrl 3) ∧
    decode (.write 0b000000001100 4 2) = .ok (.wrStatus 2) ∧
    decode (.write 0b000000010100 4 0xFFFFFFFD) = .ok (.wrXwidth 0xFFFFFFFD) ∧
    decode (.write 0b000000011000 4 2) = .ok (.wrYheight 2) ∧
    decode (.write 0b000000011100 4 6) = .ok (.wrSrcAddr 6) ∧
    decode (.write 0b000000100000 4 0x1FF) = .ok (.wrSrcData8 0x1FF) ∧
    decode (.write 0b000000100100 4 0x04030201) = .ok (.wrSrcData32 0x04030201) ∧
    decode (.write 0b000000101100 4 1) = .ok (.wrQX0 1) ∧
    decode (.write 0b000000110000 4 2) = .ok (.wrQY0 2) ∧
    decode (.write 0b000000110100 4 3) = .ok (.wrQX1 3) ∧
    decode (.write 0b000000111000 4 4) = .ok (.wrQY1 4) ∧
    decode (.write 0b000000111100 4 5) = .ok (.wrSpanAddr 5) ∧
    decode (.write 0b000001000000 4 6) = .ok (.wrSpanLen 6) := by decide

theorem test_decode_others :
    decode (.write 0b000001011100 4 7) = .ok (.wrRoOrReserved 0x05C 7) ∧
    decode (.write 0b111111111100 4 7) = .ok (.wrRoOrReserved 0xFFC 7) ∧
    decode (.write 0b000000001000 2 1) = .ok (.busMalformed .write 0x008 2) ∧
    decode (.read 0b000000000010 4) = .ok (.busMalformed .read 0x002 4) ∧
    decode (.read 0b000000001100 4) = .ok (.rd 0x00C) ∧
    decode (.write 0b000000101000 4 0x00000110) = .error (.illegalCommand 0x110) ∧
    decode (.write 0b000000101000 4 0x00000003) = .error (.illegalCommand 0x003) := by decide

theorem test_decodeTableWord :
    decodeTableWord 32 0x00000013 = some .qnzavg ∧ decodeTableWord 16 0x014 = some (.wrXwidth 0) := by decide

theorem test_withFetchWord_runs_the_word :
    (nextOf (step (State.reset.withFetchWord 32 0x10))).map statusWord = some 0x00000434 := by decide

/-! ## Commands -/

/-- T1. -/
theorem test_nop_accepted : (nextOf (exec .nop State.reset)).map statusWord = some 0x00000001 := by decide
/-- T1. -/
theorem test_nop_completes : (nextOf (engineTurn busyEmpty)).map statusWord = some 0x00000002 := by decide
/-- T2. -/
theorem test_build_accepted :
    (nextOf (exec .build loaded)).map (fun t => (statusWord t, t.tabW, t.tabH)) = some (0x00000011, 3, 2) := by decide
/-- R203. -/
theorem test_build_tables :
    (nextOf (engineTurn building)).map (fun t => (statusWord t, t.sum.map (·.2), t.nz.map (·.2))) =
      some (0x00000022, [1, 1, 3, 4, 8, 10], [1, 1, 2, 2, 3, 4]) := by decide
/-- T2. -/
theorem test_clear_completes :
    (nextOf (engineTurn (pending .clear))).map (fun t => (statusWord t, t.src)) = some (0x00000002, []) := by decide
/-- T2: a query after CLEAR. -/
theorem test_qsum_not_ready :
    (nextOf (exec .qsum { State.reset with done := true })).map (fun t => (statusWord t, t.faultInfo)) =
      some (0x00000436, 0x10) := by decide
/-- P1, rows 19 to 23. -/
theorem test_qsum_result :
    (nextOf (engineTurn (pending .qsum))).map (fun t => (t.res.u32, t.res.rectX0, t.res.rectX1)) = some (6, 1, 2) := by
  decide
/-- P1, rows 28 to 33: the unclamped denominator. -/
theorem test_qavg_result :
    (nextOf (engineTurn (latchCommand (commandWord .qavg) (withQuery 0xFFFFFFFF 0 2 1 ready)))).map
      (fun t => (t.res.u32, t.res.f64Hi, t.res.f64Lo, t.res.rectX0)) = some (0xA, 0x3FF40000, 0, 0) := by
  decide +kernel
/-- R203: NZ over columns 1 and 2 counts 2 and 4. -/
theorem test_qnzc_result : (nextOf (engineTurn (pending .qnzc))).map (fun t => t.res.u32) = some 2 := by decide
/-- P1, rows 38 to 42. -/
theorem test_qnzavg_result :
    (nextOf (engineTurn (latchCommand (commandWord .qnzavg) (withQuery 0 0 2 1 ready)))).map
      (fun t => (t.res.u32, t.res.f64Hi, t.res.f64Lo)) = some (4, 0x40040000, 0) := by
  decide +kernel
/-- R226: TRD_SUM at (1, 1). -/
theorem test_trdSum_result :
    (nextOf (engineTurn (latchCommand (commandWord .trdSum) (withQuery 1 1 9 9 ready)))).map (fun t => t.res.u32) =
      some 8 := by decide
/-- Section 2.6: x = W faults, with no clamp. -/
theorem test_trdSum_index :
    (nextOf (exec .trdSum (withQuery 3 0 0 0 ready))).map (fun t => (statusWord t, t.faultInfo)) =
      some (0x00000936, 0x20) := by decide
/-- R227: TRD_NZ at (2, 1). -/
theorem test_trdNz_result :
    (nextOf (engineTurn (latchCommand (commandWord .trdNz) (withQuery 2 1 0 0 ready)))).map (fun t => t.res.u32) =
      some 4 := by decide
/-- R172's first six pixels: 1, 2, 0, 255, 0, 3. -/
def spanState (c : Command) : State :=
  latchCommand (commandWord c)
    (withQuery 0 0 0 0 { State.reset with src := Memory.ofListFrom 0 [1, 2, 0, 255, 0, 3] })
/-- R172. -/
theorem test_spanSum_result : (nextOf (engineTurn (spanState .spanSum))).map (fun t => t.res.u32) = some 261 := by decide
/-- Section 2.3: no 32-bit wrap in the range check. -/
theorem test_spanSum_range :
    (nextOf (exec .spanSum { State.reset with ops := { State.reset.ops with spanAddr := 0xFFFFFFFF, spanLen := 1 } })).map
      (fun t => (statusWord t, t.faultInfo)) = some (0x00000A34, 0x30) := by decide
/-- R173. -/
theorem test_spanNzc_result : (nextOf (engineTurn (spanState .spanNzc))).map (fun t => t.res.u32) = some 4 := by decide

/-! ## Register writes and reads -/

/-- T6. -/
theorem test_wrCtrl_reset :
    (nextOf (exec (.wrCtrl 3) { busyEmpty with ie := true })).map (fun t => (statusWord t, ctrlWord t)) = some (0, 0) := by
  decide
/-- T8. -/
theorem test_wrCtrl_reserved_bits :
    (nextOf (exec (.wrCtrl 0xFFFFFFFE) State.reset)).map ctrlWord = some 0x00000002 := by decide
/-- T3. -/
theorem test_wrStatus_other_bits :
    (nextOf (exec (.wrStatus 0xFFFFFFFD) { State.reset with done := true })).map statusWord = some 2 := by decide
/-- Section 2.8. -/
theorem test_wrXwidth_immutable :
    (nextOf (exec (.wrXwidth 8) ready)).map (fun t => (statusWord t, t.faultInfo)) = some (0x00000536, 0x14) := by decide
/-- Section 2.8: the build is cancelled. -/
theorem test_wrYheight_busy :
    (nextOf (exec (.wrYheight 2) building)).map (fun t => (statusWord t, t.faultInfo, t.sum)) =
      some (0x00000634, 0x18, []) := by decide
/-- Section 2.8. -/
theorem test_wrSrcAddr_busy :
    (nextOf (exec (.wrSrcAddr 0) busyEmpty)).map (fun t => (statusWord t, t.faultInfo)) = some (0x00000634, 0x1C) := by
  decide
/-- M2. -/
theorem test_wrSrcData8_stores :
    (nextOf (exec (.wrSrcData8 0x1FF) { State.reset with srcAddr := 4 })).map (fun t => (t.src, t.srcAddr)) =
      some ([(4, 255)], 5) := by decide
/-- Section 2.8: index = MAX_CELLS. -/
theorem test_wrSrcData8_range :
    (nextOf (exec (.wrSrcData8 1) { State.reset with srcAddr := 0x01000000 })).map
      (fun t => (statusWord t, t.faultInfo, t.src)) = some (0x00000834, 0x01000000, []) := by decide
/-- M3. -/
theorem test_wrSrcData32_stores :
    (nextOf (exec (.wrSrcData32 0x80FF0010) { State.reset with srcAddr := 5 })).map (fun t => (t.src, t.srcAddr)) =
      some ([(5, 16), (6, 0), (7, 255), (8, 128)], 9) := by decide
/-- Section 2.8: it would cross MAX_CELLS. -/
theorem test_wrSrcData32_range :
    (nextOf (exec (.wrSrcData32 0x04030201) { State.reset with srcAddr := 0x00FFFFFD })).map
      (fun t => (statusWord t, t.faultInfo, t.src)) = some (0x00000834, 0x00FFFFFD, []) := by decide
/-- The latch hazard of section 2.7: the pending query keeps its latched corner. -/
theorem test_wrQX0_while_pending :
    (nextOf (exec (.wrQX0 9) (pending .qsum))).map (fun t => (t.ops.qX0, t.lat.x0, t.busy)) = some (9, 1, true) := by decide
/-- R268: the four corners are different registers. -/
theorem test_corners_are_distinct :
    (nextOf (exec (.wrQY0 7) State.reset)).map (readRegister 0x030) = some 7 ∧
    (nextOf (exec (.wrQX1 7) State.reset)).map (readRegister 0x034) = some 7 ∧
    (nextOf (exec (.wrQY1 7) State.reset)).map (readRegister 0x038) = some 7 := by decide
/-- R269. -/
theorem test_span_registers :
    (nextOf (exec (.wrSpanAddr 7) State.reset)).map (readRegister 0x03C) = some 7 ∧
    (nextOf (exec (.wrSpanLen 7) State.reset)).map (readRegister 0x040) = some 7 := by decide
/-- P-1: FAULT_BUS comes before FAULT_BUSY. -/
theorem test_wrRoOrReserved_while_busy :
    (nextOf (exec (.wrRoOrReserved 0x044 0) busyEmpty)).map (fun t => (statusWord t, t.faultInfo)) =
      some (0x00000B34, 0x44) := by decide
/-- Section 2.8: a 1-byte read of STATUS. -/
theorem test_busMalformed_read :
    (nextOf (exec (.busMalformed .read 0x00C 1) State.reset)).map (fun t => (statusWord t, t.faultInfo, t.host.readData)) =
      some (0x00000B34, 0x0C, 0) := by decide
/-- T2. -/
theorem test_rd_status : (nextOf (exec (.rd 0x00C) ready)).map (fun t => t.host.readData) = some 0x00000022 := by decide
/-- M5. -/
theorem test_capWord : capWord 8 true = 0x01180108 ∧ capWord 16 false = 0x01180010 := by decide
/-- P-2 and P-3. -/
theorem test_illegal_command_priority :
    (nextOf (hostTurn (.write 0x028 4 0x110) busyEmpty)).map (fun t => (statusWord t, t.faultInfo)) =
      some (0x00000634, 0x28) ∧
    (nextOf (hostTurn (.write 0x028 4 0x1010) State.reset)).map (fun t => (statusWord t, t.faultInfo)) =
      some (0x00000734, 0x1010) := by decide
/-- P-4, P-5 and the row of R304 of section 2.8. -/
theorem test_build_check_order :
    (nextOf (exec .build State.reset)).map (fun t => (statusWord t, t.faultInfo)) = some (0x00000134, 1) ∧
    (nextOf (exec .build { State.reset with ops := { State.reset.ops with xwidth := 65536, yheight := 65536 } })).map
      (fun t => (statusWord t, t.faultInfo)) = some (0x00000234, 1) := by decide
/-- R304: the lowest unwritten index. -/
theorem test_build_unwritten :
    (nextOf (exec .build { loaded with src := [(0, 1), (1, 2), (3, 4)] })).map
      (fun t => (statusWord t, t.faultInfo)) = some (0x00000334, 2) := by decide

/-! ## Rectangles, lanes, rounding -/

/-- Section 2.1, rows K4, K6 and K10. -/
theorem test_rect :
    clampRect 4 4 ⟨-3, 2, 9, -1⟩ = ⟨0, 0, 3, 2⟩ ∧ clampRect 4 4 ⟨10, 10, 20, 20⟩ = ⟨3, 3, 3, 3⟩ ∧
    getWidth ⟨-2147483648, 0, 2147483647, 0⟩ = 4294967296 := by decide
/-- K5: `intersected` alone does not order. -/
theorem test_intersected : intersected ⟨-3, 2, 9, -1⟩ 0 0 3 3 = ⟨0, 2, 3, 0⟩ := by decide
/-- L5, L3 and L8. -/
theorem test_lanes8 :
    (List.ofFn (lanePrefix (L := 8) (fun k => BitVec.ofNat 32 (k.val + 1)))) = [1, 3, 6, 10, 15, 21, 28, 36] ∧
    (List.ofFn (laneShiftUp (L := 8) (fun k => BitVec.ofNat 32 (k.val + 1)) 1)) = [0, 1, 2, 3, 4, 5, 6, 7] ∧
    hreduce (L := 8) (fun k => BitVec.ofNat 32 (k.val + 1)) = 36 := by decide +kernel
/-- L6. -/
theorem test_lanes16 :
    (List.ofFn (lanePrefix (L := 16) (fun k => BitVec.ofNat 32 (k.val + 1)))) =
      [1, 3, 6, 10, 15, 21, 28, 36, 45, 55, 66, 78, 91, 105, 120, 136] := by decide +kernel
/-- B5: one full lane group and a tail of 2. -/
theorem test_vecTable_tail :
    vecTable 8 laneWiden pixelValue
        (fun i => BitVec.ofNat 8 ([1, 2, 3, 4, 5, 6, 7, 8, 9, 10, 0, 255, 0, 255, 0, 255, 0, 255, 0, 255].getD i 0)) 10 2 =
      [1, 3, 6, 10, 15, 21, 28, 36, 45, 55, 1, 258, 261, 520, 525, 786, 793, 1056, 1065, 1330] := by decide +kernel
/-- S-e (16 / 24), Q8 (1020 / 45 and 1020 / 7), Q11 (2400 / 2^64) and S-a (1.0). -/
theorem test_rounding :
    bits64 (f64Div (f64OfNat 16) (f64OfNat 24)) = 0x3FE5555555555555 ∧
    bits64 (f64Div (f64OfNat 1020) (f64OfNat 45)) = 0x4036AAAAAAAAAAAB ∧
    bits64 (f64Div (f64OfNat 1020) (f64OfNat 7)) = 0x406236DB6DB6DB6E ∧
    bits64 (f64Div (f64OfNat 2400) (f64OfNat (2 ^ 64))) = 0x3CA2C00000000000 ∧
    bits64 (f64Div (f64OfNat 16) (f64OfNat 16)) = 0x3FF0000000000000 := by decide +kernel

/-! ## Witnesses: the hypotheses of the statements can be met, each clause at a boundary of its range -/

/-- `ready` meets the invariant. -/
theorem witness_ready_invariant : Invariant ready where
  srcForm := by decide
  sumForm := by decide
  nzForm := by decide
  busyLegal := by intro h; cases h
  building := by constructor <;> intro h <;> revert h <;> decide
  faultedIdle := by decide
  faultCode := by decide
  faultInfo := by decide
  dims := fun _ => ⟨by decide, by decide, by decide, by decide, by decide, by decide⟩
  tables := fun _ => ⟨by decide, by decide⟩
  pendingTables := by intro _ h; cases h
  pendingCell := by intro _ h; cases h
  pendingSpan := by intro _ h; cases h

/-- A state of READY with any command but BUILD pending meets the invariant. -/
theorem witness_pending_invariant (c : Command) (hc : c ≠ .build) : Invariant (pending c) where
  srcForm := witness_ready_invariant.srcForm
  sumForm := witness_ready_invariant.sumForm
  nzForm := witness_ready_invariant.nzForm
  busyLegal := fun _ => ⟨c, rfl⟩
  building := by
    constructor
    · intro h; cases h
    · rintro ⟨_, h⟩; exact absurd (commandWord_injective h) hc
  faultedIdle := by intro h; cases h
  faultCode := by constructor <;> intro h <;> revert h <;> simp [pending, withQuery, ready, loaded, State.reset, latchCommand]
  faultInfo := fun _ => rfl
  dims := fun _ =>
    have h := witness_ready_invariant.dims (.inr rfl)
    ⟨h.width, h.height, h.widthPos, h.heightPos, h.fits, h.written⟩
  tables := fun _ =>
    have h := witness_ready_invariant.tables rfl
    ⟨h.sum, h.nz⟩
  pendingTables := fun _ _ _ _ => rfl
  pendingCell := fun _ _ _ _ => (by unfold CellInTable; decide : CellInTable (pending .trdSum))
  pendingSpan := fun _ _ _ _ => ⟨(by decide : 0 + 6 ≤ Config.maxCells), fun i _ h2 => (by decide : ∀ i, i < 6 → srcValid ready i = true) i h2⟩

/-- A state with a BUILD pending meets the invariant. -/
theorem witness_building_invariant : Invariant building where
  srcForm := by decide
  sumForm := by decide
  nzForm := by decide
  busyLegal := fun _ => ⟨.build, rfl⟩
  building := by decide
  faultedIdle := by decide
  faultCode := by decide
  faultInfo := by decide
  dims := fun _ => ⟨by decide, by decide, by decide, by decide, by decide, by decide⟩
  tables := by intro h; cases h
  pendingTables := by intro c _ h hn; cases commandWord_injective (c := .build) h; cases hn
  pendingCell := by intro c _ h hn; cases commandWord_injective (c := .build) h; cases hn
  pendingSpan := by intro c _ h hn; cases commandWord_injective (c := .build) h; cases hn

/-- Every command but BUILD is pending in READY. -/
theorem witness_pending (c : Command) : Pending c (pending c) := ⟨rfl, (by intro h; cases h), rfl, rfl⟩

theorem witness_pending_build : Pending .build building := by unfold Pending; decide

theorem witness_idle : Idle State.reset ∧ Idle ready := by unfold Idle; decide

theorem witness_StepRunsDecodedTransaction :
    (withInput (.access (.write 0x028 4 1)) loaded).host.script = .access (.write 0x028 4 1) :: [] ∧
    (withInput (.access (.write 0x028 4 1)) loaded).host.rst = false ∧ decode (.write 0x028 4 1) = .ok .build := by decide

theorem witness_StepGivesAgentsTheirTurns :
    (withInput (.access (.read 0x00C 4)) ready).host.script = .access (.read 0x00C 4) :: [] ∧
    State.reset.host.script = [] ∧ (withInput .engine building).host.script = .engine :: [] ∧
    State.reset.busy = false ∧ faulted.engine = .faulted ∧ (setRst true building).host.rst = true := by decide

theorem witness_DecodeOfEncodeAgrees :
    (Instr.wrRoOrReserved 0xFFC 1).wellFormed = true ∧ (Instr.busMalformed .write 0xFFF 4).wellFormed = true ∧
    (Instr.busMalformed .read 0x000 0).wellFormed = true ∧ (Instr.rd 0xFFC).wellFormed = true ∧
    Instr.build.wellFormed = true := by decide

theorem witness_EncodeOfDecodeAgrees :
    decode (.read 0xFFC 4) = .ok (.rd 0xFFC) ∧ ∀ off size, Instr.rd 0xFFC ≠ .busMalformed .write off size :=
  ⟨by decide, by intro _ _ h; cases h⟩

theorem witness_IllegalCommandWordsFault :
    (0x00000110 : Word) ∉ ([0x00, 0x01, 0x02, 0x10, 0x11, 0x12, 0x13, 0x20, 0x21, 0x30, 0x31] : List Word) ∧
    (0xFFFFFFFF : Word) ∉ ([0x00, 0x01, 0x02, 0x10, 0x11, 0x12, 0x13, 0x20, 0x21, 0x30, 0x31] : List Word) ∧
    (0x00000003 : Word) ∉ ([0x00, 0x01, 0x02, 0x10, 0x11, 0x12, 0x13, 0x20, 0x21, 0x30, 0x31] : List Word) ∧
    faulted.engine = .faulted ∧ faulted.host.rst = false ∧
    busyEmpty.engine ≠ .faulted ∧ busyEmpty.busy = true ∧ busyEmpty.host.rst = false ∧
    ready.engine ≠ .faulted ∧ ready.busy = false ∧ ready.host.rst = false := by decide

theorem witness_ResetRegisterValues :
    (0x008 : Offset) ≠ 0x000 ∧ (0x008 : Offset) ≠ 0x004 ∧ (0xFFF : Offset) ≠ 0x000 ∧ (0xFFF : Offset) ≠ 0x004 := by decide

theorem witness_CtrlWriteResetsOrSetsEnable :
    (3 : Word).getLsbD 0 = true ∧ (1 : Word).getLsbD 0 = true ∧ (2 : Word).getLsbD 0 = false ∧
    (0 : Word).getLsbD 0 = false := by decide

theorem witness_ResetInputHoldsAndResets :
    (withInput .rstAssert ready).host.script = .rstAssert :: [] ∧
    (setRst true (withInput (.access (.write 0x028 4 0)) ready)).host.script = .access (.write 0x028 4 0) :: [] ∧
    (setRst true (withInput (.access (.read 0x044 4)) ready)).host.script = .access (.read 0x044 4) :: [] ∧
    (setRst true (withInput .engine building)).host.script = .engine :: [] ∧
    (setRst true (withInput .rstRelease building)).host.script = .rstRelease :: [] ∧
    (setRst true (withInput .rstRelease building)).host.rst = true := by decide

theorem witness_ReadsReturnRegisters :
    (0x020 : Offset) ∈ ([0x020, 0x024, 0x028] : List Offset) ∧ 0x060 ≤ (0x060 : Offset).toNat ∧
    0x060 ≤ (0xFFC : Offset).toNat := by decide

/-- One state for each column of R275: FAULTED, BUSY, READY idle, EMPTY idle (DimensionWrites, SrcAddrWrites,
QueryOperandWrites, ForbiddenAccesses, FaultEntryEffects, FaultedIgnoresWrites, CommandStateChecks). -/
theorem witness_states :
    (faulted.engine = .faulted ∧ faulted.host.rst = false) ∧ (building.engine ≠ .faulted ∧ building.busy = true) ∧
    ((pending .qsum).engine ≠ .faulted ∧ (pending .qsum).busy = true) ∧ (ready.engine = .ready ∧ ready.busy = false) ∧
    (State.reset.engine ≠ .faulted ∧ State.reset.engine ≠ .ready ∧ State.reset.engine ≠ .building ∧
      State.reset.engine = .empty ∧ State.reset.busy = false) := by decide

/-- SRC_ADDR at each side of the bounds of R266 and R267, in EMPTY and idle (SrcData8Stores, SrcData32Stores). -/
theorem witness_source_range :
    (∀ a : Word, (atSource a).engine = .empty ∧ (atSource a).busy = false) ∧
    2 ^ 24 ≤ (atSource 0x01000000).srcAddr.toNat ∧ (atSource 0x00FFFFFF).srcAddr.toNat < 2 ^ 24 ∧
    2 ^ 24 < (atSource 0x00FFFFFD).srcAddr.toNat + 4 ∧ (atSource 0x00FFFFFC).srcAddr.toNat + 4 ≤ 2 ^ 24 :=
  ⟨fun _ => ⟨rfl, rfl⟩, by decide⟩

theorem witness_ForbiddenAccesses :
    ((1 : Nat) ≠ 4 ∧ (8 : Nat) ≠ 4 ∧ (0x00D : Offset).toNat % 4 ≠ 0) ∧
    ((0x010 : Offset).toNat % 4 = 0 ∧ (0x010 : Offset) ∈ ([0x000, 0x004, 0x010] : List Offset)) ∧
    ((0x044 : Offset).toNat % 4 = 0 ∧ 0x044 ≤ (0x044 : Offset).toNat) ∧
    ((0xFFC : Offset).toNat % 4 = 0 ∧ 0x044 ≤ (0xFFC : Offset).toNat) := by decide

theorem witness_FaultedIgnoresWrites :
    malformed 0x00C 1 = true ∧ ((0x028 : Offset) ≠ 0x008 ∧ (0x028 : Offset) ≠ 0x00C) ∧ malformed 0xFFC 4 = false := by
  decide

theorem witness_FaultedLeftOnlyByReset :
    faulted.engine = .faulted ∧ step faulted = .next faulted :=
  ⟨by decide, rfl⟩

theorem witness_CommandStateChecks :
    Command.trdNz.needsTables = true ∧ State.reset.engine = .empty ∧ State.reset.busy = false := by decide

/-- EngineRaisesNoFault, CompletionReadsOnlyLatches. -/
theorem witness_engineTurn : ∃ t, engineTurn (pending .qavg) = .next t :=
  ⟨_, engineTurn_pending (witness_pending .qavg)⟩

/-- InterruptLine: completions, an acknowledging, a resetting and a masking write in FAULTED, and acceptances in READY and
in EMPTY. -/
theorem witness_InterruptLine :
    Pending .qavg (pending .qavg) ∧ (∃ t, engineTurn (pending .qavg) = .next t) ∧
    Pending .build building ∧ (∃ t, engineTurn building = .next t) ∧
    ((2 : Word).getLsbD 1 = true ∧ ∃ t, exec (.wrStatus 2) faulted = .next t) ∧
    ((3 : Word).getLsbD 0 = true ∧ ∃ t, exec (.wrCtrl 3) faulted = .next t) ∧
    ((0 : Word).getLsbD 1 = false ∧ ∃ t, exec (.wrCtrl 0) faulted = .next t) ∧
    (Idle ready ∧ ∃ t, exec Command.trdNz.instr ready = .next t ∧ t.engine ≠ .faulted) ∧
    (Idle loaded ∧ ∃ t, exec Command.build.instr loaded = .next t ∧ t.engine ≠ .faulted) :=
  ⟨witness_pending _, ⟨_, engineTurn_pending (witness_pending _)⟩, witness_pending_build,
    ⟨_, engineTurn_pending witness_pending_build⟩, ⟨by decide, _, rfl⟩, ⟨by decide, _, rfl⟩, ⟨by decide, _, rfl⟩,
    ⟨witness_idle.2, _, rfl, by decide⟩, ⟨.inl rfl, rfl⟩, _, rfl, by decide⟩

/-- B1; and the largest buffer, B6, all cells written. -/
theorem witness_BuildAccepted :
    (loaded.engine = .empty ∧ loaded.busy = false ∧ loaded.ops.xwidth.toInt = (3 : Nat) ∧
      loaded.ops.yheight.toInt = (2 : Nat) ∧ ∀ i, i < 3 * 2 → srcValid loaded i = true) ∧
    ((4096 : Word).toInt = (4096 : Nat) ∧ 4096 * 4096 ≤ 2 ^ 24 ∧ ∀ i, i < 4096 * 4096 → srcValid full i = true) := by
  refine ⟨by decide, by decide, by decide, fun i hi => ?_⟩
  simp only [srcValid, full, lookup_ofListFrom, List.getElem?_replicate, Nat.zero_le, if_true, Nat.sub_zero]
  rw [if_pos (by omega)]; rfl

/-- The dimensions of section 2.8, and `loaded` without its pixel of index 2; each in EMPTY and idle. -/
theorem witness_BuildChecksInOrder :
    (∀ w h : Word, (sized w h).engine = .empty ∧ (sized w h).busy = false) ∧
    ((sized 0 2).ops.xwidth.toInt ≤ 0 ∧ (sized 3 0x80000000).ops.yheight.toInt ≤ 0) ∧
    (0 < (sized 65536 65536).ops.xwidth.toInt ∧ 0 < (sized 65536 65536).ops.yheight.toInt ∧
      2 ^ 24 < (sized 65536 65536).ops.xwidth.toInt * (sized 65536 65536).ops.yheight.toInt ∧
      2 ^ 24 < (sized 4097 4096).ops.xwidth.toInt * (sized 4097 4096).ops.yheight.toInt) ∧
    (0 < (sized 3 2).ops.xwidth.toInt ∧ 0 < (sized 3 2).ops.yheight.toInt ∧
      (sized 3 2).ops.xwidth.toInt * (sized 3 2).ops.yheight.toInt ≤ 2 ^ 24 ∧
      ((2 : Nat) : Int) < (sized 3 2).ops.xwidth.toInt * (sized 3 2).ops.yheight.toInt ∧
      srcValid (sized 3 2) 2 = false ∧ ∀ j, j < 2 → srcValid (sized 3 2) j = true) :=
  ⟨fun _ _ => ⟨rfl, rfl⟩, by decide⟩

/-- BuildFollowsRecurrence, BuildClosedForm: the last cell of B1. -/
theorem witness_BuildClosedForm :
    Pending .build building ∧ building.tabW * building.tabH ≤ 2 ^ 24 ∧ 2 < building.tabW ∧ 1 < building.tabH :=
  ⟨witness_pending_build, by decide, by decide, by decide⟩

theorem witness_TablesMonotone :
    Invariant ready ∧ ready.engine = .ready ∧ 2 < ready.tabW ∧ 1 < ready.tabH :=
  ⟨witness_ready_invariant, rfl, by decide, by decide⟩

/-- The first and the last cell of the table, and a cell outside it on each side, in READY and idle
(QueriesAcceptedInReady, TableReadIndexFault). -/
theorem witness_table_reads :
    (∀ x y : Word, (withQuery x y 0 0 ready).engine = .ready ∧ (withQuery x y 0 0 ready).busy = false) ∧
    (let s := withQuery 0 0 0 0 ready;
      0 ≤ s.ops.qX0.toInt ∧ s.ops.qX0.toInt ≤ s.tabW - 1 ∧ 0 ≤ s.ops.qY0.toInt ∧ s.ops.qY0.toInt ≤ s.tabH - 1) ∧
    (let s := withQuery 2 1 0 0 ready;
      0 ≤ s.ops.qX0.toInt ∧ s.ops.qX0.toInt ≤ s.tabW - 1 ∧ 0 ≤ s.ops.qY0.toInt ∧ s.ops.qY0.toInt ≤ s.tabH - 1) ∧
    ¬ 0 ≤ (withQuery 0xFFFFFFFF 0 0 0 ready).ops.qX0.toInt ∧ ¬ 0 ≤ (withQuery 0 0xFFFFFFFF 0 0 ready).ops.qY0.toInt ∧
    ¬ (withQuery 3 0 0 0 ready).ops.qX0.toInt ≤ (ready.tabW : Int) - 1 ∧
    ¬ (withQuery 0 2 0 0 ready).ops.qY0.toInt ≤ (ready.tabH : Int) - 1 :=
  ⟨fun _ _ => ⟨rfl, rfl⟩, by decide⟩

/-- QsumIsExact, QnzcIsExact, QavgIsExact, QnzavgIsExact, TableReadsReturnCells, StatusWriteClearsDone,
NopAcceptedAndCompleted, ClearAcceptedAndCompleted. -/
theorem witness_pending_commands :
    (Invariant (pending .qsum) ∧ Pending .qsum (pending .qsum)) ∧ (Invariant (pending .qnzc) ∧ Pending .qnzc (pending .qnzc)) ∧
    (Invariant (pending .qavg) ∧ Pending .qavg (pending .qavg)) ∧
    (Invariant (pending .qnzavg) ∧ Pending .qnzavg (pending .qnzavg)) ∧
    (Invariant (pending .trdSum) ∧ Pending .trdSum (pending .trdSum)) ∧
    (Invariant (pending .trdNz) ∧ Pending .trdNz (pending .trdNz)) ∧
    Pending .nop (pending .nop) ∧ Pending .clear (pending .clear) := by
  refine ⟨⟨?_, ?_⟩, ⟨?_, ?_⟩, ⟨?_, ?_⟩, ⟨?_, ?_⟩, ⟨?_, ?_⟩, ⟨?_, ?_⟩, ?_, ?_⟩ <;>
    first
    | exact witness_pending _
    | exact witness_pending_invariant _ (by decide)

/-- The whole of B1, and the empty span at the end of SRC, in EMPTY and idle. -/
theorem witness_SpansAccepted :
    (∀ a n : Word, Idle (spanning a n)) ∧
    (let s := spanning 0 6;
      s.ops.spanAddr.toNat + s.ops.spanLen.toNat ≤ 2 ^ 24 ∧
      ∀ i, s.ops.spanAddr.toNat ≤ i → i < s.ops.spanAddr.toNat + s.ops.spanLen.toNat → srcValid s i = true) ∧
    (spanning 0x01000000 0).ops.spanAddr.toNat + (spanning 0x01000000 0).ops.spanLen.toNat ≤ 2 ^ 24 :=
  ⟨fun _ _ => ⟨.inl rfl, rfl⟩,
    ⟨by decide, fun i _ h => (by decide : ∀ i, i < 0 + 6 → srcValid (spanning 0 6) i = true) i h⟩, by decide⟩

/-- The spans that exceed SRC by one cell, one of them empty, and one whose last cell is unwritten; idle by
`witness_SpansAccepted`. -/
theorem witness_SpanChecksInOrder :
    2 ^ 24 < (spanning 0x01000001 0).ops.spanAddr.toNat + (spanning 0x01000001 0).ops.spanLen.toNat ∧
    2 ^ 24 < (spanning 0xFFFFFFFF 1).ops.spanAddr.toNat + (spanning 0xFFFFFFFF 1).ops.spanLen.toNat ∧
    (let s := spanning 0 7;
      s.ops.spanAddr.toNat + s.ops.spanLen.toNat ≤ 2 ^ 24 ∧ 6 < s.ops.spanAddr.toNat + s.ops.spanLen.toNat ∧
      srcValid s 6 = false ∧ ∀ j, j < 6 → srcValid s j = true) := by decide

theorem witness_SpanResultsAreExact :
    (Pending .spanSum (pending .spanSum) ∧ (pending .spanSum).lat.sa.toNat + (pending .spanSum).lat.sl.toNat ≤ 2 ^ 24) ∧
    (Pending .spanNzc (pending .spanNzc) ∧ (pending .spanNzc).lat.sa.toNat + (pending .spanNzc).lat.sl.toNat ≤ 2 ^ 24) :=
  ⟨⟨witness_pending _, by decide⟩, witness_pending _, by decide⟩

/-- ClampedRectNeverEmpty, RectAlgebra, WidthAsymmetry: a one-cell buffer, corners at and beyond each edge, and a
rectangle in range at both ends of the axis. -/
theorem witness_rects :
    (1 ≤ (1 : Nat) ∧ (1 : Nat) ≤ (1 : Int) ∧ (-1 : Int) < 0 ∧ (0 : Int) ≤ (1 : Nat) - 1) ∧ (0 : Int) ≤ 0 ∧
    (let q : Rect := ⟨3, 0, 0, 3⟩;
      0 ≤ q.x0 ∧ q.x0 ≤ ((4 : Nat) : Int) - 1 ∧ 0 ≤ q.x1 ∧ q.x1 ≤ ((4 : Nat) : Int) - 1 ∧
      0 ≤ q.y0 ∧ q.y0 ≤ ((4 : Nat) : Int) - 1 ∧ 0 ≤ q.y1 ∧ q.y1 ≤ ((4 : Nat) : Int) - 1) ∧
    (let q : Rect := ⟨-5, 9, -5, 9⟩; q.x0 = q.x1 ∧ q.y0 = q.y1) := by decide

/-- LanePrefixSums, SpanPathsAgree, BuildPathsAgree. -/
theorem witness_lanes : (8 = 8 ∨ 8 = 16) ∧ (16 = 8 ∨ 16 = 16) := by decide

/-- RoundsToNearestEven, DivisionRoundsOnce, EncodingKeepsValue: 2^53 + 1, half way between two binary64 values. -/
theorem witness_rounding :
    0 < 1 ∧ F64.representable ⟨2 ^ 53 - 1, -1074⟩ ∧ 0 < (f64OfNat 45).sig ∧ 2 ^ 53 + 1 < 2 ^ 1023 * 1 :=
  ⟨by decide, by unfold F64.representable; decide, by decide +kernel, by decide +kernel⟩

/-- StepKeepsInvariant, StepAlwaysAnswers, PendingCommandCompletes, EngineStateTransitions. -/
theorem witness_whole_machine :
    Invariant building ∧ building.busy = true ∧ building.host.rst = false ∧ building.host.script = [] ∧
    ∃ t, step building = .next t :=
  ⟨witness_building_invariant, rfl, rfl, rfl, _, (step_nil rfl).trans (engineTurn_pending witness_pending_build)⟩

theorem witness_ReadyIsImmutable :
    Invariant (pending .qsum) ∧ (pending .qsum).engine = .ready ∧ ∃ t, step (pending .qsum) = .next t :=
  ⟨witness_pending_invariant _ (by decide), rfl, _, (step_nil rfl).trans (engineTurn_pending (witness_pending .qsum))⟩

theorem witness_ResultsChangeOnlyAtCompletion :
    (∃ t, exec .qsum ready = .next t) ∧ ∀ data, Instr.qsum = .wrCtrl data → data.getLsbD 0 = false :=
  ⟨⟨_, rfl⟩, by intro _ h; cases h⟩

end Sys2Proof.Tests
end

section
/-! PROOFS. The binary64 arithmetic of the averages (00_scope.md R17): one rounding to nearest, ties to even, and the
encoding of its result. -/

namespace Sys2Proof.Machine

/-! ## The integer step of a rounding -/

theorem div_le_divNearestEven (n d : Nat) : n / d ≤ divNearestEven n d := by
  unfold divNearestEven; split <;> omega

theorem divNearestEven_le_div_succ (n d : Nat) : divNearestEven n d ≤ n / d + 1 := by
  unfold divNearestEven; split <;> omega

/-- Rounding to a natural does not cross a natural from below. -/
theorem divNearestEven_le {n d m : Nat} (hd : 0 < d) (h : (n / d : ℚ) < m) : divNearestEven n d ≤ m := by
  have hlt : n / d < m := by
    rw [Nat.div_lt_iff_lt_mul hd]
    rw [div_lt_iff₀ (by positivity)] at h
    exact_mod_cast h
  have := divNearestEven_le_div_succ n d
  omega

/-- Nor from above. -/
theorem le_divNearestEven {n d m : Nat} (hd : 0 < d) (h : (m : ℚ) ≤ n / d) : m ≤ divNearestEven n d := by
  have hle : m ≤ n / d := by
    rw [Nat.le_div_iff_mul_le hd]
    rw [le_div_iff₀ (by positivity)] at h
    exact_mod_cast h
  exact hle.trans (div_le_divNearestEven n d)

/-! ## The unit in the last place -/

/-- A ratio lies within a factor of two of the power that its operands' logarithms give. -/
theorem ratio_log2_bounds {num den : Nat} (hn : num ≠ 0) (hd : 0 < den) :
    (2 : ℚ) ^ ((num.log2 : ℤ) - den.log2 - 1) < num / den ∧ (num / den : ℚ) < 2 ^ ((num.log2 : ℤ) - den.log2 + 1) := by
  have nlo : (2 : ℚ) ^ (num.log2 : ℤ) ≤ num := by exact_mod_cast Nat.log2_self_le hn
  have nhi : (num : ℚ) < 2 ^ ((num.log2 : ℤ) + 1) := by exact_mod_cast Nat.lt_log2_self
  have dlo : (2 : ℚ) ^ (den.log2 : ℤ) ≤ den := by exact_mod_cast Nat.log2_self_le hd.ne'
  have dhi : (den : ℚ) < 2 ^ ((den.log2 : ℤ) + 1) := by exact_mod_cast Nat.lt_log2_self
  have hd' : (0 : ℚ) < den := by exact_mod_cast hd
  constructor
  · rw [lt_div_iff₀ hd']
    calc (2 : ℚ) ^ ((num.log2 : ℤ) - den.log2 - 1) * den
        < 2 ^ ((num.log2 : ℤ) - den.log2 - 1) * 2 ^ ((den.log2 : ℤ) + 1) := by gcongr
      _ = 2 ^ (num.log2 : ℤ) := by rw [← zpow_add₀ two_ne_zero]; congr 1; ring
      _ ≤ num := nlo
  · rw [div_lt_iff₀ hd']
    calc (num : ℚ) < 2 ^ ((num.log2 : ℤ) + 1) := nhi
      _ = 2 ^ ((num.log2 : ℤ) - den.log2 + 1) * 2 ^ (den.log2 : ℤ) := by
        rw [← zpow_add₀ two_ne_zero]; congr 1; ring
      _ ≤ 2 ^ ((num.log2 : ℤ) - den.log2 + 1) * den := by gcongr

/-- A scaled ratio is below a natural bound exactly when the ratio is below the bound's multiple of the unit. -/
theorem scaleRatio_lt_iff {num den : Nat} (hd : 0 < den) (e : ℤ) (m : Nat) :
    (scaleRatio num den e).1 < m * (scaleRatio num den e).2 ↔ (num / den : ℚ) < m * 2 ^ e := by
  have hpos : (0 : ℚ) < (scaleRatio num den e).2 := by exact_mod_cast scaleRatio_pos hd
  rw [← div_lt_iff₀ (by positivity : (0 : ℚ) < 2 ^ e), ← scaleRatio_value hd, div_lt_iff₀ hpos]
  exact_mod_cast Iff.rfl

/-- The ratio takes 53 bits in units of the last place, and fewer only at the least exponent. -/
theorem ulpExponent_spec {num den : Nat} (hn : num ≠ 0) (hd : 0 < den) :
    -1074 ≤ ulpExponent num den ∧ (num / den : ℚ) < 2 ^ 53 * 2 ^ ulpExponent num den ∧
      (ulpExponent num den = -1074 ∨ 2 ^ 52 * 2 ^ ulpExponent num den ≤ (num / den : ℚ)) := by
  obtain ⟨hlo, hhi⟩ := ratio_log2_bounds hn hd
  obtain ⟨e, he, elo, ehi⟩ : ∃ e : ℤ, ulpExponent num den = max e (-1074) ∧
      2 ^ 52 * 2 ^ e ≤ (num / den : ℚ) ∧ (num / den : ℚ) < 2 ^ 53 * 2 ^ e := by
    have pow_mul (k : Nat) (i j : ℤ) (h : k + i = j) : (2 : ℚ) ^ k * 2 ^ i = 2 ^ j := by
      rw [← zpow_natCast, ← zpow_add₀ two_ne_zero, h]
    refine ⟨_, rfl, ?_⟩
    split
    · rename_i h
      rw [scaleRatio_lt_iff hd] at h
      refine ⟨le_of_lt ?_, by exact_mod_cast h⟩
      rwa [pow_mul 52 _ ((num.log2 : ℤ) - den.log2 - 1) (by push_cast; ring)]
    · rename_i h
      rw [scaleRatio_lt_iff hd, not_lt, Nat.cast_pow, Nat.cast_ofNat] at h
      rw [pow_mul 53 _ ((num.log2 : ℤ) - den.log2) (by push_cast; ring)] at h
      rw [pow_mul 52 _ ((num.log2 : ℤ) - den.log2) (by push_cast; ring),
        pow_mul 53 _ ((num.log2 : ℤ) - den.log2 + 1) (by push_cast; ring)]
      exact ⟨h, hhi⟩
  rw [he]
  refine ⟨le_max_right _ _, ehi.trans_le ?_, ?_⟩
  · gcongr
    · norm_num
    · exact le_max_left _ _
  · rcases le_total e (-1074) with h | h
    · exact .inl (max_eq_right h)
    · exact .inr (by rwa [max_eq_left h])

/-! ## The rounded value -/

/-- The ratio rounded to a natural number of units in its last place. -/
def roundedUlps (num den : Nat) : Nat :=
  let r := scaleRatio num den (ulpExponent num den)
  divNearestEven r.1 r.2

@[simp] theorem roundF64_zero (den : Nat) : roundF64 0 den = ⟨0, -1074⟩ := rfl

/-- Rounding answers the rounded count of units, renormalised where it reached 2^53. -/
theorem roundF64_cases {num : Nat} (hn : num ≠ 0) (den : Nat) :
    (roundedUlps num den = 2 ^ 53 ∧ roundF64 num den = ⟨2 ^ 52, ulpExponent num den + 1⟩) ∨
    (roundedUlps num den ≠ 2 ^ 53 ∧ roundF64 num den = ⟨roundedUlps num den, ulpExponent num den⟩) := by
  by_cases h : roundedUlps num den = 2 ^ 53
  · exact .inl ⟨h, by rw [roundF64, if_neg hn]; exact if_pos h⟩
  · exact .inr ⟨h, by rw [roundF64, if_neg hn]; exact if_neg h⟩

/-- The rounded value is the rounded count of units, renormalised or not. -/
theorem roundF64_value {num : Nat} (hn : num ≠ 0) (den : Nat) :
    (roundF64 num den).value = roundedUlps num den * 2 ^ ulpExponent num den := by
  rcases roundF64_cases hn den with ⟨hq, h⟩ | ⟨-, h⟩
  · rw [h, hq, F64.value, zpow_add₀ two_ne_zero]; push_cast; ring
  · rw [h, F64.value]

theorem roundedUlps_le {num den : Nat} (hn : num ≠ 0) (hd : 0 < den) : roundedUlps num den ≤ 2 ^ 53 := by
  obtain ⟨-, hlt, -⟩ := ulpExponent_spec hn hd
  refine divNearestEven_le (scaleRatio_pos hd) ?_
  rw [scaleRatio_value hd, div_lt_iff₀ (by positivity)]
  exact_mod_cast hlt

/-- Above the least exponent the rounded count has all 53 bits. -/
theorem le_roundedUlps {num den : Nat} (hn : num ≠ 0) (hd : 0 < den) :
    ulpExponent num den = -1074 ∨ 2 ^ 52 ≤ roundedUlps num den := by
  obtain ⟨-, -, h | hle⟩ := ulpExponent_spec hn hd
  · exact .inl h
  · refine .inr (le_divNearestEven (scaleRatio_pos hd) ?_)
    rw [scaleRatio_value hd, le_div_iff₀ (by positivity)]
    exact_mod_cast hle

/-- In units of the last place no integer is nearer to the ratio, and a tie goes to the even one. -/
theorem roundedUlps_nearest {num den : Nat} (hd : 0 < den) (k : ℤ) :
    |(num / den : ℚ) - roundedUlps num den * 2 ^ ulpExponent num den| ≤
        |(num / den : ℚ) - k * 2 ^ ulpExponent num den| ∧
      (|(num / den : ℚ) - roundedUlps num den * 2 ^ ulpExponent num den| =
          |(num / den : ℚ) - k * 2 ^ ulpExponent num den| →
        k = roundedUlps num den ∨ roundedUlps num den % 2 = 0) := by
  have scaled (a : ℚ) : |(num / den : ℚ) - a * 2 ^ ulpExponent num den| =
      |(num / den : ℚ) / 2 ^ ulpExponent num den - a| * 2 ^ ulpExponent num den := by
    have hpos : (0 : ℚ) < 2 ^ ulpExponent num den := by positivity
    rw [← abs_of_pos hpos, ← abs_mul, abs_of_pos hpos, sub_mul, div_mul_cancel₀ _ hpos.ne']
  obtain ⟨hle, htie⟩ := divNearestEven_nearest (scaleRatio_pos (n := num) (e := ulpExponent num den) hd) k
  rw [scaleRatio_value hd] at hle htie
  rw [scaled, scaled]
  exact ⟨mul_le_mul_of_nonneg_right hle (by positivity), fun h => htie (mul_right_cancel₀ (by positivity) h)⟩

/-- A value no finer than the unit is a whole number of units. -/
theorem value_eq_ulps {g : F64} {e : ℤ} (h : e ≤ g.exp) : ∃ k : ℤ, g.value = k * 2 ^ e := by
  refine ⟨g.sig * 2 ^ (g.exp - e).toNat, ?_⟩
  have hpow : (2 : ℚ) ^ (g.exp - e).toNat = 2 ^ (g.exp - e) := by
    rw [← zpow_natCast, Int.toNat_of_nonneg (by omega)]
  push_cast
  rw [F64.value, hpow, mul_assoc, ← zpow_add₀ two_ne_zero, sub_add_cancel]

/-- A binary64 value finer than the unit is below every ratio that needs the unit. -/
theorem value_lt_of_exp_lt {g : F64} {e : ℤ} (hg : g.sig < 2 ^ 53) (h : g.exp < e) : g.value < 2 ^ 52 * 2 ^ e := by
  have hsig : (g.sig : ℚ) < 2 ^ 53 := by exact_mod_cast hg
  calc g.value < 2 ^ 53 * 2 ^ g.exp := by unfold F64.value; gcongr
    _ ≤ 2 ^ 53 * 2 ^ (e - 1) := by
      gcongr
      · norm_num
      · omega
    _ = 2 ^ 52 * 2 ^ e := by rw [zpow_sub₀ two_ne_zero]; ring

theorem roundF64_representable {num den : Nat} (hd : 0 < den) : (roundF64 num den).representable := by
  by_cases hn : num = 0
  · subst hn; exact ⟨by norm_num, le_refl _⟩
  · obtain ⟨hexp, -, -⟩ := ulpExponent_spec hn hd
    have hle := roundedUlps_le hn hd
    rcases roundF64_cases hn den with ⟨-, h⟩ | ⟨hne, h⟩
    · rw [h]; exact ⟨by norm_num, by dsimp only; omega⟩
    · rw [h]; exact ⟨lt_of_le_of_ne hle hne, hexp⟩

/-- An even count of units gives an even significand. -/
theorem roundF64_sig_even {num : Nat} (hn : num ≠ 0) (den : Nat) (h : roundedUlps num den % 2 = 0) :
    (roundF64 num den).sig % 2 = 0 := by
  rcases roundF64_cases hn den with ⟨-, he⟩ | ⟨-, he⟩
  · rw [he]; norm_num
  · rw [he]; exact h

/-- No binary64 value is nearer to the ratio than the rounded one, and a tie goes to the even significand. -/
theorem roundF64_nearest {num den : Nat} (hd : 0 < den) {g : F64} (hg : g.representable) :
    |(num / den : ℚ) - (roundF64 num den).value| ≤ |(num / den : ℚ) - g.value| ∧
      (|(num / den : ℚ) - (roundF64 num den).value| = |(num / den : ℚ) - g.value| →
        g.value = (roundF64 num den).value ∨ (roundF64 num den).sig % 2 = 0) := by
  by_cases hn : num = 0
  · subst hn
    have hvalue : (roundF64 0 den).value = 0 := by simp [F64.value]
    rw [hvalue, Nat.cast_zero, zero_div, sub_zero, abs_zero]
    exact ⟨abs_nonneg _, fun _ => .inr rfl⟩
  · rw [roundF64_value hn]
    obtain ⟨hsig, hexp⟩ := hg
    rcases le_or_gt (ulpExponent num den) g.exp with hcoarse | hfine
    · obtain ⟨k, hk⟩ := value_eq_ulps hcoarse
      obtain ⟨hle, htie⟩ := roundedUlps_nearest (num := num) hd k
      rw [hk]
      refine ⟨hle, fun heq => (htie heq).imp (fun h => ?_) (roundF64_sig_even hn den)⟩
      rw [h, Int.cast_natCast]
    · obtain ⟨-, -, hmin | hbig⟩ := ulpExponent_spec hn hd
      · omega
      · have hlt := value_lt_of_exp_lt hsig hfine
        have hnear := (roundedUlps_nearest (num := num) hd (2 ^ 52)).1
        rw [Int.cast_pow, Int.cast_ofNat, abs_of_nonneg (sub_nonneg.mpr hbig)] at hnear
        have hstrict : |(num / den : ℚ) - roundedUlps num den * 2 ^ ulpExponent num den| <
            |(num / den : ℚ) - g.value| :=
          calc _ ≤ (num / den : ℚ) - 2 ^ 52 * 2 ^ ulpExponent num den := hnear
            _ < (num / den : ℚ) - g.value := by linarith
            _ ≤ _ := le_abs_self _
        exact ⟨hstrict.le, fun heq => absurd heq hstrict.ne⟩

/-- Settles O50: the rounded count of units is a nearest integer to the ratio; a binary64 value is a whole number of
those units, or too small to be as near. -/
theorem roundsToNearestEven : Obligations.RoundsToNearestEven :=
  fun _ _ hd => ⟨roundF64_representable hd, fun _ hg => roundF64_nearest hd hg⟩

/-! ## Division -/

/-- Division rounds a ratio equal to the exact quotient of the two values. -/
theorem f64Div_ratio (a : F64) {b : F64} (hb : 0 < b.sig) :
    ∃ num den : Nat, 0 < den ∧ f64Div a b = roundF64 num den ∧ (num / den : ℚ) = a.value / b.value := by
  refine ⟨_, _, scaleRatio_pos hb, rfl, ?_⟩
  rw [scaleRatio_value hb, F64.value, F64.value, zpow_sub₀ two_ne_zero]
  field_simp

/-- Settles O51: division is the rounding of O50, of the exact quotient. -/
theorem divisionRoundsOnce : Obligations.DivisionRoundsOnce := by
  intro a b hb
  obtain ⟨num, den, hd, hdiv, hquot⟩ := f64Div_ratio a hb
  rw [hdiv, ← hquot]
  exact roundsToNearestEven num den hd

/-! ## The encoding -/

/-- A finite binary64 value in the one form that the encoding reads: 53 significant bits, or the least exponent. -/
structure F64.Canonical (f : F64) : Prop where
  sig_lt : f.sig < 2 ^ 53
  le_exp : -1074 ≤ f.exp
  exp_le : f.exp ≤ 971
  normal : f.exp = -1074 ∨ 2 ^ 52 ≤ f.sig

/-- The exponent field, the fraction field and the sign of a word of 63 bits. -/
theorem fields_ofNat {e m : Nat} (he : e < 2 ^ 11) (hm : m < 2 ^ 52) :
    ((BitVec.ofNat 64 (e * 2 ^ 52 + m)).extractLsb' 52 11).toNat = e ∧
    ((BitVec.ofNat 64 (e * 2 ^ 52 + m)).extractLsb' 0 52).toNat = m ∧
    (BitVec.ofNat 64 (e * 2 ^ 52 + m)).msb = false := by
  have hw : (BitVec.ofNat 64 (e * 2 ^ 52 + m)).toNat = e * 2 ^ 52 + m := by
    rw [BitVec.toNat_ofNat]; omega
  refine ⟨?_, ?_, ?_⟩
  · rw [BitVec.extractLsb'_toNat, hw, Nat.shiftRight_eq_div_pow]; omega
  · rw [BitVec.extractLsb'_toNat, hw, Nat.shiftRight_eq_div_pow]; omega
  · rw [BitVec.msb_eq_false_iff_two_mul_lt, hw]; omega

/-- A canonical significand below 2^52 stands at the least exponent, and is the word itself: exponent field 0. -/
theorem encoding_subnormal {f : F64} (hf : f.Canonical) (h : f.sig < 2 ^ 52) :
    encodedValue (bits64 f) = f.value ∧ (bits64 f).msb = false := by
  have hexp : f.exp = -1074 := hf.normal.resolve_right (by omega)
  have hbits : bits64 f = BitVec.ofNat 64 (0 * 2 ^ 52 + f.sig) := by rw [bits64, if_pos h]; simp
  obtain ⟨he, hm, hs⟩ := fields_ofNat (e := 0) (by norm_num) h
  rw [hbits]
  exact ⟨by simp only [encodedValue, he, hm, if_true, F64.value, hexp], hs⟩

/-- A significand of 53 bits is encoded without its leading bit, beside the exponent biased by 1075. -/
theorem encoding_normal {f : F64} (hf : f.Canonical) (h : 2 ^ 52 ≤ f.sig) :
    encodedValue (bits64 f) = f.value ∧ (bits64 f).msb = false := by
  obtain ⟨hsig, hlo, hhi, -⟩ := hf
  have hbits : bits64 f = BitVec.ofNat 64 ((f.exp + 1075).toNat * 2 ^ 52 + (f.sig - 2 ^ 52)) := by
    rw [bits64, if_neg (by omega), if_neg (by omega)]
  obtain ⟨he, hm, hs⟩ := fields_ofNat (e := (f.exp + 1075).toNat) (m := f.sig - 2 ^ 52) (by omega) (by omega)
  have hbias : (((f.exp + 1075).toNat : ℕ) : ℤ) - 1075 = f.exp := by omega
  have hlead : (2 : ℚ) ^ 52 + ((f.sig - 2 ^ 52 : ℕ) : ℚ) = f.sig := by
    rw [Nat.cast_sub h]; push_cast; ring
  rw [hbits]
  refine ⟨?_, hs⟩
  simp only [encodedValue, he, hm]
  rw [if_neg (by omega), hlead, hbias, F64.value]

/-- A ratio below 2^1023 rounds to a canonical value: its last place is at most 2^970. -/
theorem roundF64_canonical {num den : Nat} (hd : 0 < den) (hlt : num < 2 ^ 1023 * den) :
    (roundF64 num den).Canonical := by
  obtain ⟨hsig, hexp⟩ := roundF64_representable (num := num) hd
  by_cases hn : num = 0
  · subst hn; exact ⟨hsig, hexp, by norm_num [roundF64_zero], .inl rfl⟩
  · have hulp : ulpExponent num den ≤ 970 := by
      obtain ⟨-, -, hmin | hbig⟩ := ulpExponent_spec hn hd
      · omega
      · have hx : (num / den : ℚ) < 2 ^ (1023 : ℤ) := by
          rw [div_lt_iff₀ (by exact_mod_cast hd)]; exact_mod_cast hlt
        have hpow : (2 : ℚ) ^ (52 + ulpExponent num den) < 2 ^ (1023 : ℤ) := by
          rw [zpow_add₀ two_ne_zero]; exact lt_of_le_of_lt (by exact_mod_cast hbig) hx
        have := (zpow_lt_zpow_iff_right₀ (by norm_num : (1 : ℚ) < 2)).mp hpow
        omega
    refine ⟨hsig, hexp, ?_, ?_⟩
    · rcases roundF64_cases hn den with ⟨-, h⟩ | ⟨-, h⟩ <;> rw [h] <;> dsimp only <;> omega
    · rcases roundF64_cases hn den with ⟨-, h⟩ | ⟨-, h⟩ <;> rw [h]
      · exact .inr (le_refl _)
      · exact le_roundedUlps hn hd

/-- Settles O52: rounding answers a canonical value, and the encoding keeps each of those. -/
theorem encodingKeepsValue : Obligations.EncodingKeepsValue := by
  intro num den hd hlt
  have hf := roundF64_canonical hd hlt
  rcases lt_or_ge (roundF64 num den).sig (2 ^ 52) with h | h
  · exact encoding_subnormal hf h
  · exact encoding_normal hf h

end Sys2Proof.Machine
end

section
/-! PROOFS. The queries are exact (44_query.md R220 to R225, R228, R230): a cell of a built table is the sum of
the pixels of a block at the buffer's corner, inclusion and exclusion of four such sums is the sum over the rectangle,
and no value reaches 2^32. -/

namespace Sys2Proof.Machine

/-! ## Sums over a block at the buffer's corner -/

/-- The sum of `f` over the first `a` columns of the first `b` rows of a buffer of `w` columns. -/
def cornerSum (w : Nat) (f : Nat → Nat) (a b : Nat) : Nat :=
  ∑ y ∈ Finset.range b, ∑ x ∈ Finset.range a, f (y * w + x)

section CornerSums

variable (w : Nat) (f : Nat → Nat)

@[simp] theorem cornerSum_zero_columns (b : Nat) : cornerSum w f 0 b = 0 := by simp [cornerSum]

@[simp] theorem cornerSum_zero_rows (a : Nat) : cornerSum w f a 0 = 0 := rfl

theorem cornerSum_succ_rows (a b : Nat) :
    cornerSum w f a (b + 1) = cornerSum w f a b + ∑ x ∈ Finset.range a, f (b * w + x) :=
  Finset.sum_range_succ _ _

theorem regionSum_zero_zero (x y : Nat) : regionSum w f 0 0 x y = cornerSum w f (x + 1) (y + 1) := by
  simp only [regionSum, cornerSum, Nat.range_succ_eq_Icc_zero]

theorem cornerSum_mono_columns {a a' : Nat} (h : a ≤ a') (b : Nat) : cornerSum w f a b ≤ cornerSum w f a' b :=
  Finset.sum_le_sum fun _ _ => Finset.sum_le_sum_of_subset (Finset.range_mono h)

/-- R221 over the exact integers: the sums of the four blocks that end at the region's corners leave
the region. -/
theorem cornerSum_inclusion_exclusion {x0 y0 x1 y1 : Nat} (hx : x0 ≤ x1) (hy : y0 ≤ y1) :
    cornerSum w f (x1 + 1) (y1 + 1) + cornerSum w f x0 y0 =
      regionSum w f x0 y0 x1 y1 + cornerSum w f (x1 + 1) y0 + cornerSum w f x0 (y1 + 1) := by
  have rows (a : Nat) : cornerSum w f a (y1 + 1) =
      cornerSum w f a y0 + ∑ y ∈ Finset.Icc y0 y1, ∑ x ∈ Finset.range a, f (y * w + x) := by
    rw [← Finset.Ico_add_one_right_eq_Icc]
    exact (Finset.sum_range_add_sum_Ico _ (by omega)).symm
  have columns (y : Nat) : ∑ x ∈ Finset.range (x1 + 1), f (y * w + x) =
      ∑ x ∈ Finset.range x0, f (y * w + x) + ∑ x ∈ Finset.Icc x0 x1, f (y * w + x) := by
    rw [← Finset.Ico_add_one_right_eq_Icc]
    exact (Finset.sum_range_add_sum_Ico _ (by omega)).symm
  rw [rows (x1 + 1), rows x0, regionSum]
  simp only [columns, Finset.sum_add_distrib]
  omega

theorem cornerSum_le {m : Nat} (hf : ∀ i, f i ≤ m) (a b : Nat) : cornerSum w f a b ≤ b * (a * m) := by
  have row (y : Nat) : ∑ x ∈ Finset.range a, f (y * w + x) ≤ a * m := by
    simpa using Finset.sum_le_card_nsmul (Finset.range a) _ m fun x _ => hf (y * w + x)
  simpa [cornerSum] using Finset.sum_le_card_nsmul (Finset.range b) _ (a * m) fun y _ => row y

/-- R228: no sum over a buffer of at most `MAX_CELLS` pixels reaches 2^32. -/
theorem cornerSum_lt {h a b : Nat} (hf : ∀ i, f i ≤ 255) (hfits : w * h ≤ Config.maxCells) (ha : a ≤ w) (hb : b ≤ h) :
    cornerSum w f a b < 2 ^ 32 :=
  calc cornerSum w f a b ≤ b * (a * 255) := cornerSum_le w f hf a b
    _ ≤ h * (w * 255) := by gcongr
    _ = 255 * (w * h) := by ring
    _ ≤ 255 * Config.maxCells := by gcongr
    _ < 2 ^ 32 := by decide

end CornerSums

/-! ## The cells of the built tables -/

/-- The table read by `cell` holds at each cell the exact sum of `f` above and to the left of it (R194). -/
def HoldsCornerSums (cell : Nat → Word) (w h : Nat) (f : Nat → Nat) : Prop :=
  ∀ x y, x < w → y < h → (cell (y * w + x)).toNat = regionSum w f 0 0 x y

/-- The recurrence of R193 sums the buffer modulo 2^32, row by row. -/
theorem toNat_scalarTable (unit : Byte → Word) (cell : Nat → Byte) {w h x y : Nat} (hx : x < w) (hy : y < h) :
    ((scalarTable unit cell w h).getD (y * w + x) 0).toNat =
      cornerSum w (fun i => (unit (cell i)).toNat) (x + 1) (y + 1) % 2 ^ 32 := by
  induction y with
  | zero =>
    rw [List.getD_eq_getElem?_getD, scalarTable_cell unit cell hx hy, cornerSum_succ_rows]
    simp [toNat_sumRange]
  | succ y ih =>
    have above := ih (by omega)
    rw [List.getD_eq_getElem?_getD, scalarTable_cell unit cell hx hy, Option.getD_some, if_neg (Nat.succ_ne_zero y),
      BitVec.toNat_add, toNat_sumRange, Nat.add_sub_cancel, above, cornerSum_succ_rows _ _ _ (y + 1), ← Nat.add_mod,
      Nat.add_comm]
    simp only [Nat.zero_add]

/-- A memory written by BUILD holds the exact sums: nothing wraps (R194, R228). -/
theorem holdsCornerSums_scalarTable (unit : Byte → Word) (cell : Nat → Byte) {w h : Nat}
    (hunit : ∀ v, (unit v).toNat ≤ 255) (hfits : w * h ≤ Config.maxCells) (unbuilt : Nat → Word) :
    HoldsCornerSums (fun i => (Memory.lookup (Memory.ofListFrom 0 (scalarTable unit cell w h)) i).getD (unbuilt i)) w h
      (fun i => (unit (cell i)).toNat) := by
  intro x y hx hy
  have built := scalarTable_cell unit cell hx hy
  have hmod := toNat_scalarTable unit cell hx hy
  rw [List.getD_eq_getElem?_getD] at hmod
  rw [Nat.mod_eq_of_lt (cornerSum_lt w _ (fun _ => hunit _) hfits hx hy)] at hmod
  simp only [lookup_ofListFrom, Nat.zero_le, if_true, Nat.sub_zero]
  rw [regionSum_zero_zero]
  rw [built] at hmod ⊢
  exact hmod

theorem toNat_pixelValue (v : Byte) : (pixelValue v).toNat = v.toNat :=
  BitVec.toNat_setWidth_of_le (by norm_num)

theorem toNat_pixelNonZero (v : Byte) : (pixelNonZero v).toNat = if v ≠ 0 then 1 else 0 := by
  unfold pixelNonZero; split <;> rfl

section Built

variable {s : State}

theorem sumCell_holdsCornerSums (hd : DimsHeld s) (ht : TablesBuilt s) :
    HoldsCornerSums (sumCell s) s.tabW s.tabH (pixelNat s) := by
  have h := holdsCornerSums_scalarTable pixelValue (srcCell s)
    (fun v => by rw [toNat_pixelValue]; have := v.isLt; omega) hd.fits (Config.unspecifiedSum s.era)
  simp only [toNat_pixelValue, ← ht.sum] at h
  exact h

theorem nzCell_holdsCornerSums (hd : DimsHeld s) (ht : TablesBuilt s) :
    HoldsCornerSums (nzCell s) s.tabW s.tabH (nonZeroNat s) := by
  have h := holdsCornerSums_scalarTable pixelNonZero (srcCell s)
    (fun v => by rw [toNat_pixelNonZero]; split <;> omega) hd.fits (Config.unspecifiedNz s.era)
  simp only [toNat_pixelNonZero, ← ht.nz] at h
  exact h

end Built

/-! ## Inclusion and exclusion -/

@[simp] theorem cellIndex_natCast (w x y : Nat) : cellIndex w x y = y * w + x := by
  unfold cellIndex; exact_mod_cast Int.toNat_natCast _

/-- Subtracting what was added twice is exact where the result fits in 32 bits. -/
theorem toNat_add_sub_sub {a b u l : Word} {n : Nat} (h : a.toNat + b.toNat = n + u.toNat + l.toNat) (hn : n < 2 ^ 32) :
    (a + b - u - l).toNat = n := by
  simp only [BitVec.toNat_sub, BitVec.toNat_add]
  have := u.isLt
  have := l.isLt
  omega

section Rectangle

variable {cell : Nat → Word} {w h : Nat} {f : Nat → Nat}

/-- The cell before column `a` and row `b` holds the sum of `a` columns and `b` rows; 0 stands for it at an edge. -/
theorem HoldsCornerSums.cell_before (hc : HoldsCornerSums cell w h f) {a b : Nat} (ha : a ≤ w) (hb : b ≤ h) :
    (if 0 < a ∧ 0 < b then cell ((b - 1) * w + (a - 1)) else 0).toNat = cornerSum w f a b := by
  cases a with
  | zero => simp
  | succ a =>
    cases b with
    | zero => simp
    | succ b => simpa [regionSum_zero_zero] using hc a b ha hb

/-- R221 with the four cells taken at natural coordinates, each as the last of its block. -/
theorem satRect_natCast (cell : Nat → Word) (w x0 y0 x1 y1 : Nat) :
    let before (a b : Nat) : Word := if 0 < a ∧ 0 < b then cell ((b - 1) * w + (a - 1)) else 0
    satRect cell w ⟨x0, y0, x1, y1⟩ =
      before (x1 + 1) (y1 + 1) + before x0 y0 - before (x1 + 1) y0 - before x0 (y1 + 1) := by
  cases x0 <;> cases y0 <;> simp [satRect]

/-- R221, R228: over a table of exact corner sums the four cells give the exact sum over the rectangle. -/
theorem HoldsCornerSums.toNat_satRect (hc : HoldsCornerSums cell w h f) {x0 y0 x1 y1 : Nat} (hx : x0 ≤ x1)
    (hxw : x1 < w) (hy : y0 ≤ y1) (hyh : y1 < h) :
    (satRect cell w ⟨x0, y0, x1, y1⟩).toNat = regionSum w f x0 y0 x1 y1 := by
  have hie := cornerSum_inclusion_exclusion w f hx hy
  have hmono := cornerSum_mono_columns w f (by omega : x0 ≤ x1 + 1) y0
  have hlt : cornerSum w f (x1 + 1) (y1 + 1) < 2 ^ 32 := by
    rw [← regionSum_zero_zero, ← hc x1 y1 hxw hyh]
    exact (cell _).isLt
  rw [satRect_natCast]
  refine toNat_add_sub_sub ?_ (by omega)
  rw [hc.cell_before hxw hyh, hc.cell_before (by omega) (by omega), hc.cell_before hxw (by omega),
    hc.cell_before (by omega) hyh, hie]

end Rectangle

/-! ## The query results -/

/-- R145: the corners of a clamped rectangle are cells of the buffer, in order. -/
theorem clampRect_corners {w h : Nat} (hw : 0 < w) (hh : 0 < h) (q : Rect) :
    ∃ x0 y0 x1 y1 : Nat, clampRect w h q = ⟨x0, y0, x1, y1⟩ ∧ x0 ≤ x1 ∧ x1 < w ∧ y0 ≤ y1 ∧ y1 < h := by
  have axis {n : Nat} (hn : 0 < n) (u v : Int) : ∃ a b : Nat,
      clamp (min u v) 0 (n - 1) = a ∧ clamp (max u v) 0 (n - 1) = b ∧ a ≤ b ∧ b < n := by
    refine ⟨(clamp (min u v) 0 (n - 1)).toNat, (clamp (max u v) 0 (n - 1)).toNat, ?_, ?_, ?_, ?_⟩ <;>
      unfold clamp <;> omega
  obtain ⟨x0, x1, hx0, hx1, hx, hxw⟩ := axis hw q.x0 q.x1
  obtain ⟨y0, y1, hy0, hy1, hy, hyh⟩ := axis hh q.y0 q.y1
  exact ⟨x0, y0, x1, y1, by simp only [clampRect, intersected, normalized, hx0, hx1, hy0, hy1], hx, hxw, hy, hyh⟩

section Queries

variable {s : State}

/-- Over a table of exact corner sums, inclusion and exclusion at the clamped query is the rescanned sum (R230). -/
theorem HoldsCornerSums.toNat_satRect_clampedQuery {cell : Nat → Word} {f : Nat → Nat}
    (hc : HoldsCornerSums cell s.tabW s.tabH f) (hd : DimsHeld s) :
    (satRect cell s.tabW (clampedQuery s)).toNat = overQuery s f := by
  obtain ⟨x0, y0, x1, y1, hq, hx, hxw, hy, hyh⟩ := clampRect_corners hd.widthPos hd.heightPos (queryRect s)
  have hq : clampedQuery s = ⟨x0, y0, x1, y1⟩ := hq
  rw [overQuery, hq]
  exact hc.toNat_satRect hx hxw hy hyh

/-- R222, R230: in READY the sum of a query is the rescanned one. -/
theorem toNat_querySum (hi : Invariant s) (hr : s.engine = .ready) : (querySum s).toNat = naiveSum s :=
  have hd := hi.dims (.inr hr)
  (sumCell_holdsCornerSums hd (hi.tables hr)).toNat_satRect_clampedQuery hd

/-- R224, R230: in READY the count of a query is the rescanned one. -/
theorem toNat_queryCount (hi : Invariant s) (hr : s.engine = .ready) : (queryCount s).toNat = naiveCount s :=
  have hd := hi.dims (.inr hr)
  (nzCell_holdsCornerSums hd (hi.tables hr)).toNat_satRect_clampedQuery hd

/-- R115: a pending query or table read stands in READY. -/
theorem Invariant.ready_of_pending {c : Command} (hi : Invariant s) (hp : Pending c s) (hc : c.needsTables = true) :
    s.engine = .ready := by
  obtain ⟨hb, -, -, hcmd⟩ := hp
  exact hi.pendingTables c hb hcmd hc

/-- The two halves of a word, the high one first, are the word (R47, R86). -/
theorem halves_append (v : Bits64) : v.extractLsb' 32 32 ++ v.extractLsb' 0 32 = v := by
  rw [BitVec.extractLsb'_append_extractLsb'_eq_extractLsb' (Nat.zero_add 32).symm]
  exact BitVec.extractLsb'_eq_self

/-- What the completion of an average leaves: RES_U32, both halves of RES_F64 and RECT are written, BUSY and DONE are
those of every completion, and nothing else changes (R223, R225, R261). -/
theorem finish_average (c : Rect) (v : Bits64) (u : Word) (s : State) :
    let t := finishCommand (writeRect c (writeF64 v (writeU32 u s)))
    t.res.u32 = u ∧ t.res.f64Hi ++ t.res.f64Lo = v ∧
    t = { s with busy := false, done := true, res := {
      u32 := t.res.u32, f64Lo := t.res.f64Lo, f64Hi := t.res.f64Hi
      rectX0 := asU32 c.x0, rectY0 := asU32 c.y0
      rectX1 := asU32 c.x1, rectY1 := asU32 c.y1 } } :=
  ⟨rfl, halves_append v, rfl⟩

/-- R223: the average of QAVG in terms of the rescanned sum. -/
theorem queryAverage_eq (hi : Invariant s) (hr : s.engine = .ready) :
    queryAverage s =
      bits64 (f64Div (f64OfNat (naiveSum s)) (f64OfNat (getWidth (queryRect s) * getHeight (queryRect s)))) := by
  rw [queryAverage, toNat_querySum hi hr]

/-- R225: the average of QNZAVG in terms of the rescanned sum and count. -/
theorem queryNzAverage_eq (hi : Invariant s) (hr : s.engine = .ready) :
    queryNzAverage s =
      if naiveCount s = 0 then 0 else bits64 (f64Div (f64OfNat (naiveSum s)) (f64OfNat (naiveCount s))) := by
  have hzero : queryCount s = 0 ↔ naiveCount s = 0 := by
    rw [← toNat_queryCount hi hr, ← BitVec.toNat_inj]; rfl
  simp only [queryNzAverage, toNat_querySum hi hr, toNat_queryCount hi hr, hzero]

end Queries

/-- Settles O37: the tables hold exact corner sums, so the sum that QAVG divides is the rescanned one. -/
theorem qavgIsExact : Obligations.QavgIsExact := by
  intro s hi hp
  have hr := hi.ready_of_pending hp rfl
  obtain ⟨hu32, hf64, hframe⟩ := finish_average (clampedQuery s) (queryAverage s) (querySum s) s
  exact ⟨_, engineTurn_pending hp, (congrArg BitVec.toNat hu32).trans (toNat_querySum hi hr),
    hf64.trans (queryAverage_eq hi hr), hframe⟩

/-- Settles O38: the tables hold exact corner sums, so the sum and the count that QNZAVG divides are the rescanned
ones. -/
theorem qnzavgIsExact : Obligations.QnzavgIsExact := by
  intro s hi hp
  have hr := hi.ready_of_pending hp rfl
  obtain ⟨hu32, hf64, hframe⟩ := finish_average (clampedQuery s) (queryNzAverage s) (queryCount s) s
  exact ⟨_, engineTurn_pending hp, (congrArg BitVec.toNat hu32).trans (toNat_queryCount hi hr),
    hf64.trans (queryNzAverage_eq hi hr), hframe⟩

end Sys2Proof.Machine
end

section
/-! PROOFS. Whose turn a step is, and that a pending command completes (00_scope.md R11, R12; 20_memory.md R94;
45_control.md R261). -/

namespace Sys2Proof.Machine

section Turns

variable {s : State}

/-- R261, R340: with nothing pending, in FAULTED or under RST the ENGINE's turn changes nothing. -/
theorem engineTurn_disabled (h : s.busy = false ∨ s.engine = .faulted ∨ s.host.rst = true) : engineTurn s = .next s := by
  have hdis : engineEnabled s = false := by
    rcases h with h | h | h <;> simp [engineEnabled, h]
  simp [engineTurn, hdis]

/-- R260, R314: with BUSY = 1 and RST not held the ENGINE has one of the eleven commands to complete. -/
theorem Invariant.exists_pending (hi : Invariant s) (hb : s.busy = true) (hrst : s.host.rst = false) :
    ∃ c, Pending c s := by
  obtain ⟨c, hc⟩ := hi.busyLegal hb
  have hf : s.engine ≠ .faulted := fun hf => by simp [hi.faultedIdle hf] at hb
  exact ⟨c, hb, hf, hrst, hc⟩

end Turns

/-- Settles O2, by what takes the first input off the script and by the ENGINE's enabling condition. -/
theorem stepGivesAgentsTheirTurns : Obligations.StepGivesAgentsTheirTurns :=
  fun _ _ _ => ⟨step_cons, step_nil, step_cons, engineTurn_disabled⟩

/-- Settles O56: an empty script gives the ENGINE its turn, and every completion ends by clearing BUSY and setting
DONE. -/
theorem pendingCommandCompletes : Obligations.PendingCommandCompletes := by
  intro s hi hb hrst hscript
  obtain ⟨c, hp⟩ := hi.exists_pending hb hrst
  exact ⟨_, (step_nil hscript).trans (engineTurn_pending hp), finishCommand_busy _, finishCommand_done _⟩

end Sys2Proof.Machine
end

section
/-! PROOFS. The words of the encoding tables and of the constant and status registers (10_state.md R30, R33, R35;
30_encoding.md R111, R112, R114; 60_exceptions.md R300). -/

namespace Sys2Proof.Machine

/-- Settles O3: each of the ten transactions is the encoding of its operation, and decoding undoes encoding. -/
theorem sampleTransactionsDecode : Obligations.SampleTransactionsDecode :=
  open Laws in
  ⟨RoundTrip.nop rfl, RoundTrip.build rfl, RoundTrip.qavg rfl, RoundTrip.trdNz rfl, RoundTrip.spanSum rfl,
    RoundTrip.wrSrcData32 0x04030201 rfl, RoundTrip.wrQY1 7 rfl, RoundTrip.wrRoOrReserved 0x044 5 rfl,
    RoundTrip.busMalformed .read 0x00C 1 rfl, RoundTrip.rd 0x044 rfl⟩

/-! ## CAP -/

/-- R33: each field of a word put together like CAP is the part it was put together from. -/
theorem capLayout_fields (lanes : Byte) (vec : Bool) :
    let w := (1 : BitVec 8) ++ (24 : BitVec 8) ++ (0 : BitVec 7) ++ BitVec.ofBool vec ++ lanes
    w.extractLsb' 0 8 = lanes ∧ w.getLsbD 8 = vec ∧ w.extractLsb' 9 7 = 0 ∧ w.extractLsb' 16 8 = 24 ∧
    w.extractLsb' 24 8 = 1 := by
  intro w
  refine ⟨?_, ?_, ?_, ?_, ?_⟩ <;>
    simp only [w, BitVec.getLsbD_append, BitVec.extractLsb'_append_eq_of_le, BitVec.extractLsb'_append_eq_right,
      Nat.reduceLeDiff, Nat.reduceSub, Nat.reduceLT, Nat.le_refl, if_false]
  · simp
  · exact BitVec.extractLsb'_eq_self

theorem lanes_cases : Config.lanes = 8 ∨ Config.lanes = 16 := by
  unfold Config.lanes; split
  · exact .inr rfl
  · exact .inl rfl

/-- Settles O8: CAP is read from constants alone, whatever the state, and its layout gives each field back. -/
theorem capFields : Obligations.CapFields :=
  ⟨lanes_cases, fun _ => capLayout_fields (BitVec.ofNat 8 Config.lanes) Config.vecPresent⟩

/-! ## STATUS -/

/-- R35: each field of a word put together like STATUS is the part it was put together from. -/
theorem statusLayout_fields (code : Byte) (engine : BitVec 2) (fault done busy : Bool) :
    let w := (0 : BitVec 16) ++ code ++ (0 : BitVec 2) ++ engine ++ (0 : BitVec 1) ++ BitVec.ofBool fault ++
      BitVec.ofBool done ++ BitVec.ofBool busy
    w.getLsbD 0 = busy ∧ w.getLsbD 1 = done ∧ w.getLsbD 2 = fault ∧ w.getLsbD 3 = false ∧
    w.extractLsb' 4 2 = engine ∧ w.extractLsb' 6 2 = 0 ∧ w.extractLsb' 8 8 = code ∧ w.extractLsb' 16 16 = 0 := by
  intro w
  refine ⟨?_, ?_, ?_, ?_, ?_, ?_, ?_, ?_⟩ <;>
    simp only [w, BitVec.getLsbD_append, BitVec.extractLsb'_append_eq_of_le, BitVec.extractLsb'_append_eq_right,
      Nat.reduceLeDiff, Nat.reduceSub, Nat.reduceLT, Nat.le_refl]
  all_goals simp

theorem faultFlag_iff {s : State} : faultFlag s = true ↔ s.engine = .faulted := by
  simp [faultFlag]

/-- Settles O11: STATUS gives each of its parts back, and the tables of R30 and R300 are those of the model. -/
theorem statusWordFields : Obligations.StatusWordFields := by
  intro s
  obtain ⟨hbusy, hdone, hfault, hzero3, hengine, hzero67, hcode, hhigh⟩ :=
    statusLayout_fields s.faultCode.byte s.engine.code (faultFlag s) s.done s.busy
  refine ⟨hbusy, hdone, ?_, hzero3, fun p hp he => ?_, hzero67, fun p hp hc => ?_, hhigh⟩
  · exact (Bool.eq_iff_iff.mp hfault).trans faultFlag_iff
  · refine hengine.trans ?_
    rw [he]; clear he
    revert p; decide
  · refine hcode.trans ?_
    rw [hc]; clear hc
    revert p; decide

end Sys2Proof.Machine
end

section
/-! PROOFS. The eleven commands as one: their acceptance (45_control.md R260) and their completion (R261), and what
follows for single commands (R58; R263; R262; 44_query.md R220, R226; 42_lane_primitives.md R172). -/

namespace Sys2Proof.Machine

/-! ## Acceptance -/

/-- The state check and the command's own checks that acceptance makes (R115, R191, R226, R172). -/
def acceptCheck (c : Command) (s : State) : Option (FaultCode × Word) :=
  match c with
  | .nop | .clear => none
  | .build => (needNoTables (commandWord .build) s).or (buildCheck s)
  | .qsum | .qavg | .qnzc | .qnzavg => needTables (commandWord c) s
  | .trdSum | .trdNz => (needTables (commandWord c) s).or (indexCheck (commandWord c) s)
  | .spanSum | .spanNzc => spanCheck (commandWord c) s

/-- What acceptance does besides latching: nothing, but for BUILD (R192). -/
def acceptStart (c : Command) (s : State) : State :=
  match c with
  | .build => startBuild s
  | _ => s

/-- R260: the meaning of every command is its acceptance. -/
theorem exec_command (c : Command) (s : State) :
    exec c.instr s = .next (acceptCommand (commandWord c) (acceptCheck c) (acceptStart c) s) := by
  cases c <;> rfl

@[simp] theorem acceptStart_other {c : Command} (hc : c ≠ .build) (s : State) : acceptStart c s = s := by
  cases c with
  | build => exact absurd rfl hc
  | _ => rfl

section Checks

variable {c : Command} {s : State} {code : FaultCode} {info : Word}

/-- Every check that fails names a fault. -/
theorem acceptCheck_code (h : acceptCheck c s = some (code, info)) : code ≠ .none := by
  have index {w : Word} (h : (needTables w s).or (indexCheck w s) = some (code, info)) : code ≠ .none := by
    rcases Option.or_eq_some_iff.mp h with h | ⟨-, h⟩
    · rw [(needTables_code h).1]; decide
    · rw [(indexCheck_code h).1]; decide
  cases c with
  | nop | clear => cases h
  | build =>
    rcases Option.or_eq_some_iff.mp h with h | ⟨-, h⟩
    · rw [(needNoTables_code h).1]; decide
    · exact buildCheck_code h
  | qsum | qavg | qnzc | qnzavg => rw [(needTables_code h).1]; decide
  | trdSum | trdNz => exact index h
  | spanSum | spanNzc => exact spanCheck_code h

/-- R305: a query or table read that passes its checks finds the block out of EMPTY. -/
theorem acceptCheck_tables (h : acceptCheck c s = none) (hc : c.needsTables = true) : s.engine ≠ .empty := by
  cases c with
  | qsum | qavg | qnzc | qnzavg => exact needTables_none.mp h
  | trdSum | trdNz => exact needTables_none.mp (Option.or_eq_none_iff.mp h).1
  | _ => cases hc

/-- R226: a table read that passes its checks latches a cell of the table. -/
theorem acceptCheck_cell (h : acceptCheck c s = none) (hc : c.readsCell = true) (w : Word) :
    CellInTable (latchCommand w s) := by
  cases c with
  | trdSum | trdNz => exact indexCheck_none (Option.or_eq_none_iff.mp h).2 w
  | _ => cases hc

/-- R172: a span command that passes its checks latches a wholly written span. -/
theorem acceptCheck_span (h : acceptCheck c s = none) (hc : c.readsSpan = true) (w : Word) :
    SpanWritten (latchCommand w s) := by
  cases c with
  | spanSum | spanNzc => exact spanCheck_none h w
  | _ => cases hc

/-- R191, R306: BUILD passes its checks where no tables stand and its own checks pass. -/
theorem acceptCheck_build (h : acceptCheck .build s = none) : s.engine ≠ .ready ∧ buildCheck s = none := by
  obtain ⟨hready, hbuild⟩ := Option.or_eq_none_iff.mp h
  exact ⟨needNoTables_none.mp hready, hbuild⟩

/-- R226: in READY a table read of a cell of the table passes its checks. -/
theorem tableRead_passes (w : Word) (hr : s.engine = .ready) (hx : 0 ≤ asI32 s.ops.qX0)
    (hxw : asI32 s.ops.qX0 ≤ (s.tabW : Int) - 1) (hy : 0 ≤ asI32 s.ops.qY0)
    (hyh : asI32 s.ops.qY0 ≤ (s.tabH : Int) - 1) : (needTables w s).or (indexCheck w s) = none :=
  Option.or_eq_none_iff.mpr ⟨needTables_none.mpr (by simp [hr]), if_pos ⟨hx, hxw, hy, hyh⟩⟩

/-- R172: a span inside SRC over written cells passes its checks. -/
theorem spanCheck_passes (w : Word) (hfits : s.ops.spanAddr.toNat + s.ops.spanLen.toNat ≤ Config.maxCells)
    (hwritten : ∀ i, s.ops.spanAddr.toNat ≤ i → i < s.ops.spanAddr.toNat + s.ops.spanLen.toNat →
      srcValid s i = true) : spanCheck w s = none := by
  have hall := firstUnwritten_none.mpr hwritten
  simp [spanCheck, hall, Nat.not_lt.mpr hfits]

/-- R260: an idle block accepts a command that passes its checks. -/
theorem exec_command_accepted (hidle : Idle s) (hc : acceptCheck c s = none) :
    exec c.instr s = .next (latchCommand (commandWord c) (acceptStart c s)) := by
  rw [exec_command, acceptCommand_accepted (Idle_not_faulted hidle) hidle.2 hc]

/-- Everything a command can do at acceptance (R260): nothing in FAULTED, a fault, or the latching. -/
theorem exec_command_cases {t : State} (h : exec c.instr s = .next t) :
    (s.engine = .faulted ∧ t = s) ∨
    (s.engine ≠ .faulted ∧ ∃ code info, code ≠ FaultCode.none ∧ t = raiseFault code info s) ∨
    (s.engine ≠ .faulted ∧ s.busy = false ∧ acceptCheck c s = none ∧
      t = latchCommand (commandWord c) (acceptStart c s)) := by
  cases (exec_command c s).symm.trans h
  rcases acceptCommand_cases (commandWord c) (acceptCheck c) (acceptStart c) s with
    hfaulted | hraised | haccepted | ⟨-, -, info, hcheck⟩
  · exact .inl hfaulted
  · exact .inr (.inl hraised)
  · exact .inr (.inr haccepted)
  · exact absurd rfl (acceptCheck_code hcheck)

end Checks

/-! ## Completion -/

section Completion

variable (c : Command) (s : State)

/-- R261: every command but BUILD and CLEAR completes by writing result registers alone. -/
theorem completeCommand_results {c : Command} (hb : c ≠ .build) (hc : c ≠ .clear) (s : State) :
    ∃ res, completeCommand c s = { s with res := res } := by
  cases c with
  | build => exact absurd rfl hb
  | clear => exact absurd rfl hc
  | nop => exact ⟨s.res, rfl⟩
  | _ =>
    simp only [completeCommand, completeQsum, completeQavg, completeQnzc, completeQnzavg, completeTrdSum, completeTrdNz,
      completeSpanSum, completeSpanNzc, writeRect, writeF64, writeU32]
    exact ⟨_, rfl⟩

@[simp] theorem completeCommand_ie : (completeCommand c s).ie = s.ie := by
  by_cases hb : c = .build
  · rw [hb]; rfl
  by_cases hc : c = .clear
  · rw [hc]; rfl
  obtain ⟨res, h⟩ := completeCommand_results hb hc s
  rw [h]

/-- R52: completion neither reads nor writes the operand registers, SRC_ADDR and IE. -/
theorem completeCommand_liveRegisters (ops : OperandRegs) (srcAddr : Word) (ie : Bool) :
    completeCommand c { s with ops := ops, srcAddr := srcAddr, ie := ie } =
      { completeCommand c s with ops := ops, srcAddr := srcAddr, ie := ie } := by
  cases c <;> rfl

end Completion

/-! ## Settled obligations -/

/-- Settles O26: NOP has no check, and its completion does nothing of its own. -/
theorem nopAcceptedAndCompleted : Obligations.NopAcceptedAndCompleted :=
  ⟨fun _ hidle => exec_command_accepted (c := .nop) hidle rfl, fun _ hp => engineTurn_pending hp⟩

/-- Settles O27: CLEAR has no check, and its completion empties the list of written cells. -/
theorem clearAcceptedAndCompleted : Obligations.ClearAcceptedAndCompleted :=
  ⟨fun _ hidle => exec_command_accepted (c := .clear) hidle rfl,
    fun _ hp => ⟨_, engineTurn_pending hp, fun _ => rfl, rfl⟩⟩

/-- Settles O33: in READY the only checks left are those of the cell. -/
theorem queriesAcceptedInReady : Obligations.QueriesAcceptedInReady := by
  intro s hr hb
  have hidle : Idle s := ⟨.inr hr, hb⟩
  have htables (w : Word) : needTables w s = none := needTables_none.mpr (by simp [hr])
  refine ⟨exec_command_accepted (c := .qsum) hidle (htables _), exec_command_accepted (c := .qavg) hidle (htables _),
    exec_command_accepted (c := .qnzc) hidle (htables _), exec_command_accepted (c := .qnzavg) hidle (htables _),
    fun hx hxw hy hyh => ?_⟩
  have hcell (w : Word) := tableRead_passes w hr hx hxw hy hyh
  exact ⟨exec_command_accepted (c := .trdSum) hidle (hcell _), exec_command_accepted (c := .trdNz) hidle (hcell _)⟩

/-- Settles O40: the span passes both checks of R172. -/
theorem spansAccepted : Obligations.SpansAccepted := by
  intro s hidle hfits hwritten
  have hspan (w : Word) : spanCheck w s = none := spanCheck_passes w hfits hwritten
  exact ⟨exec_command_accepted (c := .spanSum) hidle (hspan _), exec_command_accepted (c := .spanNzc) hidle (hspan _)⟩

theorem irq_iff {s : State} : irq s = true ↔ s.ie = true ∧ (s.done = true ∨ s.engine = .faulted) := by
  simp [irq, faultFlag]

/-- R58: IRQ is 0 where there is neither DONE nor FAULT. -/
theorem irq_quiet {s : State} (hd : s.done = false) (hf : s.engine ≠ .faulted) : irq s = false := by
  simp [irq, faultFlag, hd, hf]

/-- R58: where DONE or FAULT is 1 the enable bit is the line. -/
theorem irq_raised {s : State} (h : s.done = true ∨ s.engine = .faulted) : irq s = s.ie := by
  rcases h with h | h <;> simp [irq, faultFlag, h]

/-- Settles O25, by the expression of R58 at what each operation leaves in DONE, IE and the engine state. -/
theorem interruptLine : Obligations.InterruptLine := by
  refine ⟨fun _ => irq_iff, fun c s t hp ht => ?completion, fun s code info => ?fault,
    fun data s t hd ht => ?acknowledge, fun data s t hd ht => ?maskOrReset, fun c s t hidle ht hf => ?acceptance⟩
  case completion =>
    cases (engineTurn_pending hp).symm.trans ht
    rw [irq_raised (.inl (finishCommand_done _)), finishCommand_ie, completeCommand_ie]
  case fault => rw [irq_raised (.inr (raiseFault_engine ..)), raiseFault_ie]
  case acknowledge =>
    cases ht
    simp [irq, faultFlag, hd]
  case maskOrReset =>
    cases ht
    cases hsrst : data.getLsbD 0 with
    | true => simp [irq]
    | false => simp_all [irq]
  case acceptance =>
    rcases exec_command_cases ht with ⟨hfaulted, -⟩ | ⟨-, code, info, -, rfl⟩ | ⟨-, -, -, rfl⟩
    · exact absurd hfaulted (Idle_not_faulted hidle)
    · exact absurd (raiseFault_engine ..) hf
    · exact irq_quiet (latchCommand_done ..) hf

/-- R261: where the completion step is not enabled the ENGINE's turn changes nothing. -/
theorem engineTurn_of_disabled {s : State} (h : engineEnabled s = false) : engineTurn s = .next s := by
  simp [engineTurn, h]

/-- R261: where the completion step is enabled the latched opcode selects what completes. -/
theorem engineTurn_of_enabled {s : State} {c : Command} (h : engineEnabled s = true) (hc : pendingCommand s = some c) :
    engineTurn s = .next (finishCommand (completeCommand c s)) := by
  simp [engineTurn, h, hc]

/-- Settles O60: neither the enabling of the completion step, nor the choice of the command, nor its completion reads
a live register. -/
theorem completionReadsOnlyLatches : Obligations.CompletionReadsOnlyLatches := by
  intro s t ops srcAddr ie h
  rcases engineTurn_cases h with ⟨hdis, rfl⟩ | ⟨hen, c, hc, rfl⟩
  · exact engineTurn_of_disabled hdis
  · have hturn := engineTurn_of_enabled (s := { s with ops := ops, srcAddr := srcAddr, ie := ie }) hen hc
    rw [completeCommand_liveRegisters] at hturn
    exact hturn

end Sys2Proof.Machine
end

section
/-! PROOFS. What a step can do, said once for the eleven commands, the register accesses and the completions
(20_memory.md R94; 45_control.md R260 to R274), and what follows for the result registers (10_state.md R46 to R48). -/

namespace Sys2Proof.Machine

/-! ## The transactions of the HOST -/

/-- Everything a transaction of the HOST but a reset can do to the block. -/
inductive HostEffect (s : State) : State → Prop where
  /-- R314: a fault; a malformed read returns a word as well (R273). -/
  | fault (code : FaultCode) (info : Word) (host : HostPort) (hrun : s.engine ≠ .faulted) (hcode : code ≠ .none) :
      HostEffect s { raiseFault code info s with host := host }
  /-- R265, R268 to R271, R274: registers that no pending command and no built table depends on, or nothing. -/
  | registers (done ie : Bool) (srcAddr : Word) (ops : OperandRegs) (host : HostPort)
      (hwidth : ops.xwidth = s.ops.xwidth) (hheight : ops.yheight = s.ops.yheight) :
      HostEffect s { s with done := done, ie := ie, srcAddr := srcAddr, ops := ops, host := host }
  /-- R264, R266, R267: dimensions and pixels, where no command is pending and no table is built. -/
  | load (src : List Host.Cell) (srcAddr : Word) (ops : OperandRegs) (hrun : s.engine ≠ .faulted)
      (hready : s.engine ≠ .ready) (hbusy : s.busy = false) (hform : Memory.wf s.src = true → Memory.wf src = true) :
      HostEffect s { s with src := src, srcAddr := srcAddr, ops := ops }
  /-- R260: the acceptance of a command. -/
  | accept (c : Command) (hrun : s.engine ≠ .faulted) (hbusy : s.busy = false) (hcheck : acceptCheck c s = none) :
      HostEffect s (latchCommand (commandWord c) (acceptStart c s))

namespace HostEffect

variable {s t : State} {off : Word} {code : FaultCode} {act : State → State}

theorem nothing : HostEffect s s := .registers s.done s.ie s.srcAddr s.ops s.host rfl rfl

/-- R274: only the word that the host reads. -/
theorem returned (v : Word) : HostEffect s (returnRead v s) :=
  .registers s.done s.ie s.srcAddr s.ops { s.host with readData := v } rfl rfl

theorem raised (hrun : s.engine ≠ .faulted) (hcode : code ≠ .none) (info : Word) :
    HostEffect s (raiseFault code info s) :=
  .fault code info (raiseFault code info s).host hrun hcode

/-- R268, R269: an operand register other than the two dimensions. -/
theorem operand (f : OperandRegs → OperandRegs) (hwidth : (f s.ops).xwidth = s.ops.xwidth)
    (hheight : (f s.ops).yheight = s.ops.yheight) : HostEffect s (setOperands f s) :=
  .registers s.done s.ie s.srcAddr (f s.ops) s.host hwidth hheight

/-! A filter has an effect where what it lets through has one. -/

theorem of_unlessFaulted (h : s.engine ≠ .faulted → HostEffect s (act s)) : HostEffect s (unlessFaulted act s) := by
  by_cases hf : s.engine = .faulted
  · rw [unlessFaulted_faulted hf]; exact nothing
  · rw [unlessFaulted_running hf]; exact h hf

theorem of_unlessBusy (hrun : s.engine ≠ .faulted) (h : s.busy = false → HostEffect s (act s)) :
    HostEffect s (unlessBusy off act s) := by
  cases hb : s.busy with
  | true => rw [unlessBusy_busy hb]; exact raised hrun (by decide) _
  | false => rw [unlessBusy_idle hb]; exact h hb

theorem of_unlessReady (hrun : s.engine ≠ .faulted) (h : s.engine ≠ .ready → HostEffect s (act s)) :
    HostEffect s (unlessReady off act s) := by
  by_cases hr : s.engine = .ready
  · rw [unlessReady_ready hr]; exact raised hrun (by decide) _
  · rw [unlessReady_other hr]; exact h hr

/-- R264, R266, R267: the three filters of the dimension and pixel writes. -/
theorem of_loading (h : s.engine ≠ .faulted → s.engine ≠ .ready → s.busy = false → HostEffect s (act s)) :
    HostEffect s (unlessFaulted (unlessBusy off (unlessReady off act)) s) :=
  of_unlessFaulted fun hrun => of_unlessBusy hrun fun hbusy => of_unlessReady hrun fun hready => h hrun hready hbusy

/-- R264: a dimension register. -/
theorem dimension (f : OperandRegs → OperandRegs) :
    HostEffect s (unlessFaulted (unlessBusy off (unlessReady off (setOperands f))) s) :=
  of_loading fun hrun hready hbusy => .load s.src s.srcAddr (f s.ops) hrun hready hbusy id

/-- R268, R269: an operand register that a pending command does not hold back. -/
theorem queryOperand (f : OperandRegs → OperandRegs) (hwidth : (f s.ops).xwidth = s.ops.xwidth)
    (hheight : (f s.ops).yheight = s.ops.yheight) : HostEffect s (unlessFaulted (setOperands f) s) :=
  of_unlessFaulted fun _ => operand f hwidth hheight

/-- R266: one pixel is stored, inside SRC. -/
theorem storedData8 (data : Word) :
    HostEffect s (unlessFaulted (unlessBusy off (unlessReady off (storeData8 data))) s) := by
  refine of_loading fun hrun hready hbusy => ?_
  simp only [storeData8, storePixel]; split
  · exact raised hrun (by decide) _
  · rename_i hi
    exact .load _ _ s.ops hrun hready hbusy fun hwf => wf_insert _ hwf (by omega)

/-- R267: four pixels are stored, all inside SRC. -/
theorem storedData32 (data : Word) :
    HostEffect s (unlessFaulted (unlessBusy off (unlessReady off (storeData32 data))) s) := by
  refine of_loading fun hrun hready hbusy => ?_
  simp only [storeData32, storePixel]; split
  · exact raised hrun (by decide) _
  · rename_i hi
    exact .load _ _ s.ops hrun hready hbusy fun hwf =>
      wf_insert _ (wf_insert _ (wf_insert _ (wf_insert _ hwf (by omega)) (by omega)) (by omega)) (by omega)

/-- R273: a forbidden access raises FAULT_BUS, or is ignored in FAULTED. -/
theorem forbidden (info : Word) : HostEffect s (unlessFaulted (raiseFault .bus info) s) :=
  of_unlessFaulted fun hrun => raised hrun (by decide) info

/-- R88, R273: a malformed read returns 0 besides. -/
theorem malformedAccess (dir : Dir) (info : Word) :
    HostEffect s (returnNothing dir (unlessFaulted (raiseFault .bus info) s)) := by
  cases dir with
  | write => exact forbidden info
  | read =>
    by_cases hf : s.engine = .faulted
    · rw [unlessFaulted_faulted hf]; exact returned 0
    · rw [unlessFaulted_running hf]; exact .fault .bus info _ hf (by decide)

theorem command {c : Command} (h : exec c.instr s = .next t) : HostEffect s t := by
  rcases exec_command_cases h with ⟨-, rfl⟩ | ⟨hrun, code, info, hcode, rfl⟩ | ⟨hrun, hbusy, hcheck, rfl⟩
  · exact nothing
  · exact raised hrun hcode info
  · exact .accept c hrun hbusy hcheck

/-- R118, R260, R308: an illegal command word raises a fault, or is ignored in FAULTED. -/
theorem illegalCommand (word : Word) : HostEffect s (acceptIllegal word s) := by
  unfold acceptIllegal
  rcases acceptCommand_cases word (fun _ => some (.illegalCmd, word)) id s with
    ⟨-, h⟩ | ⟨hrun, code, info, hcode, h⟩ | ⟨-, -, hcheck, -⟩ | ⟨-, -, info, hcheck⟩
  · rw [h]; exact nothing
  · rw [h]; exact raised hrun hcode info
  · cases hcheck
  · cases hcheck

end HostEffect

open HostEffect in
/-- Every operation but a resetting CTRL write has one of the effects of `HostEffect`. -/
theorem exec_effect {i : Instr} {s t : State} (h : exec i s = .next t)
    (hreset : ∀ data, i = .wrCtrl data → data.getLsbD 0 = false) : HostEffect s t := by
  cases i with
  | nop => exact command (c := .nop) h
  | build => exact command (c := .build) h
  | clear => exact command (c := .clear) h
  | qsum => exact command (c := .qsum) h
  | qavg => exact command (c := .qavg) h
  | qnzc => exact command (c := .qnzc) h
  | qnzavg => exact command (c := .qnzavg) h
  | trdSum => exact command (c := .trdSum) h
  | trdNz => exact command (c := .trdNz) h
  | spanSum => exact command (c := .spanSum) h
  | spanNzc => exact command (c := .spanNzc) h
  | wrCtrl data =>
    cases h
    rw [hreset data rfl]
    exact .registers s.done (data.getLsbD 1) s.srcAddr s.ops s.host rfl rfl
  | wrStatus data =>
    cases h
    split
    · exact .registers false s.ie s.srcAddr s.ops s.host rfl rfl
    · exact nothing
  | wrXwidth data | wrYheight data => cases h; exact dimension _
  | wrSrcAddr data =>
    cases h
    exact of_unlessFaulted fun hrun => of_unlessBusy hrun fun _ => .registers s.done s.ie data s.ops s.host rfl rfl
  | wrSrcData8 data => cases h; exact storedData8 data
  | wrSrcData32 data => cases h; exact storedData32 data
  | wrQX0 data | wrQY0 data | wrQX1 data | wrQY1 data | wrSpanAddr data | wrSpanLen data =>
    cases h; exact queryOperand _ rfl rfl
  | wrRoOrReserved off data => cases h; exact forbidden _
  | busMalformed dir off size => cases h; exact malformedAccess dir _
  | rd off => cases h; exact returned _

/-- R270: the only other operation is the CTRL write that resets the block. -/
theorem exec_cases {i : Instr} {s t : State} (h : exec i s = .next t) : HostEffect s t ∨ t = resetBlock s := by
  by_cases hreset : ∀ data, i = .wrCtrl data → data.getLsbD 0 = false
  · exact .inl (exec_effect h hreset)
  · simp only [not_forall, Bool.not_eq_false] at hreset
    obtain ⟨data, rfl, hdata⟩ := hreset
    cases h
    exact .inr (if_pos hdata)

/-- No effect of a transaction reaches a result register. -/
theorem HostEffect.res_eq {s t : State} (h : HostEffect s t) : t.res = s.res := by
  cases h with
  | fault code info host => exact raiseFault_res s code info
  | registers | load => rfl
  | accept c => cases c <;> rfl

/-- Settles O59: a transaction that does not reset the block has an effect of `HostEffect`, and none of these writes a
result register. -/
theorem resultsChangeOnlyAtCompletion : Obligations.ResultsChangeOnlyAtCompletion :=
  fun _ _ _ h hreset => (exec_effect h hreset).res_eq

/-! ## The step -/

/-- Everything a step can do, once its input is off the script. -/
inductive StepEffect (s : State) : State → Prop where
  | host {t : State} (h : HostEffect s t) : StepEffect s t
  /-- R270, R340: a reset, by CTRL or by the release of RST. -/
  | reset (host : HostPort) : StepEffect s { resetBlock s with host := host }
  /-- R261: the completion of the pending command. -/
  | complete (c : Command) (hp : Pending c s) : StepEffect s (finishCommand (completeCommand c s))

theorem StepEffect.rstLevel {s : State} (level : Bool) : StepEffect s (setRst level s) :=
  .host (.registers s.done s.ie s.srcAddr s.ops { s.host with rst := level } rfl rfl)

theorem hostTurn_effect {s t : State} {x : BusTxn} (h : hostTurn x s = .next t) : StepEffect s t := by
  rcases hostTurn_cases h with ⟨-, rfl⟩ | ⟨-, i, -, hi⟩ | ⟨-, w, -, rfl⟩
  · cases x with
    | read off size => exact .host (.returned 0)
    | write off size data => exact .host .nothing
  · rcases exec_cases hi with heffect | rfl
    · exact .host heffect
    · exact .reset s.host
  · exact .host (.illegalCommand w)

/-- Under the invariant what the ENGINE completes is a pending command. -/
theorem Invariant.engineTurn_effect {s t : State} (hi : Invariant s) (h : engineTurn s = .next t) : StepEffect s t := by
  rcases engineTurn_cases h with ⟨-, rfl⟩ | ⟨hen, -⟩
  · exact .host .nothing
  · obtain ⟨hbusy, -, hrst⟩ := engineEnabled_iff.mp hen
    obtain ⟨c, hp⟩ := hi.exists_pending hbusy hrst
    cases (engineTurn_pending hp).symm.trans h
    exact .complete c hp

theorem Invariant.takeInput_effect {s t : State} {e : Input} (hi : Invariant s) (h : takeInput e s = .next t) :
    StepEffect s t := by
  cases e with
  | access x => exact hostTurn_effect h
  | engine => exact hi.engineTurn_effect h
  | rstAssert => cases h; exact .rstLevel true
  | rstRelease =>
    cases h
    unfold releaseRst; split
    · exact .reset { s.host with rst := false }
    · exact .host .nothing

end Sys2Proof.Machine
end

section
/-! PROOFS. The invariant of the block holds after reset and every step keeps it (10_state.md R30, R53; 20_memory.md
R83, R99; 45_control.md R260; 60_exceptions.md R301, R314). -/

namespace Sys2Proof.Machine

/-! ## What the parts of the invariant read -/

/-- `t` has the source, the tables and the dimensions of `s`. -/
structure SameBuffer (s t : State) : Prop where
  src : t.src = s.src
  sum : t.sum = s.sum
  nz : t.nz = s.nz
  era : t.era = s.era
  tabW : t.tabW = s.tabW
  tabH : t.tabH = s.tabH
  xwidth : t.ops.xwidth = s.ops.xwidth
  yheight : t.ops.yheight = s.ops.yheight

section SameBuffer

variable {s t : State}

theorem SameBuffer.srcValid_eq (h : SameBuffer s t) (i : Nat) : srcValid t i = srcValid s i := by
  simp only [srcValid, h.src]

theorem SameBuffer.srcCell_eq (h : SameBuffer s t) : srcCell t = srcCell s := by
  funext i
  simp only [srcCell, h.src, h.era]

theorem DimsHeld.of_sameBuffer (hd : DimsHeld s) (h : SameBuffer s t) : DimsHeld t where
  width := by rw [h.tabW, h.xwidth, hd.width]
  height := by rw [h.tabH, h.yheight, hd.height]
  widthPos := by rw [h.tabW]; exact hd.widthPos
  heightPos := by rw [h.tabH]; exact hd.heightPos
  fits := by rw [h.tabW, h.tabH]; exact hd.fits
  written i hlt := by
    rw [h.tabW, h.tabH] at hlt
    rw [h.srcValid_eq, hd.written i hlt]

theorem TablesBuilt.of_sameBuffer (ht : TablesBuilt s) (h : SameBuffer s t) : TablesBuilt t where
  sum := by rw [h.sum, ht.sum, h.srcCell_eq, h.tabW, h.tabH]
  nz := by rw [h.nz, ht.nz, h.srcCell_eq, h.tabW, h.tabH]

end SameBuffer

section Invariant

variable {s t : State} {c : Command}

/-- With nothing pending the invariant is the canonical form of the memories, the fault code, and in READY the
dimensions and the tables. -/
theorem invariant_of_idle (hbusy : s.busy = false) (hsrc : Memory.wf s.src = true) (hsum : Memory.wf s.sum = true)
    (hnz : Memory.wf s.nz = true) (hbuilding : s.engine ≠ .building)
    (hcode : s.engine = .faulted ↔ s.faultCode ≠ .none) (hinfo : s.faultCode = .none → s.faultInfo = 0)
    (hready : s.engine = .ready → DimsHeld s ∧ TablesBuilt s) : Invariant s where
  srcForm := hsrc
  sumForm := hsum
  nzForm := hnz
  busyLegal hb := by simp [hbusy] at hb
  building := by simp [hbuilding, hbusy]
  faultedIdle _ := hbusy
  faultCode := hcode
  faultInfo := hinfo
  dims h := (hready (h.resolve_left hbuilding)).1
  tables h := (hready h).2
  pendingTables _ hb := by simp [hbusy] at hb
  pendingCell _ hb := by simp [hbusy] at hb
  pendingSpan _ hb := by simp [hbusy] at hb

/-! ## Reset -/

theorem atReset_reset : AtReset State.reset :=
  ⟨rfl, rfl, rfl, rfl, rfl, rfl, rfl, rfl, rfl, fun _ => rfl⟩

/-- R340: the reset action, whatever the surroundings do besides. -/
theorem atReset_resetBlock (s : State) (host : HostPort) : AtReset { resetBlock s with host := host } :=
  ⟨rfl, rfl, rfl, rfl, rfl, rfl, rfl, rfl, rfl, fun _ => rfl⟩

/-- R341: after reset nothing is pending and nothing is built. -/
theorem AtReset.invariant (h : AtReset s) (hsrc : Memory.wf s.src = true) (hsum : Memory.wf s.sum = true)
    (hnz : Memory.wf s.nz = true) : Invariant s :=
  invariant_of_idle h.busy hsrc hsum hnz (by simp [h.engine]) (by simp [h.engine, h.faultCode]) (fun _ => h.faultInfo)
    (by simp [h.engine])

/-- Settles O53: the reset state is as R341 says, and its memories are empty. -/
theorem resetMeetsInvariant : Obligations.ResetMeetsInvariant :=
  atReset_reset.invariant rfl rfl rfl

/-! ## Readings of the invariant -/

theorem Invariant.faultCode_none (hi : Invariant s) (hrun : s.engine ≠ .faulted) : s.faultCode = .none := by
  by_contra hne
  exact hrun (hi.faultCode.mpr hne)

theorem Invariant.not_building (hi : Invariant s) (hbusy : s.busy = false) : s.engine ≠ .building := by
  intro hb
  simp [(hi.building.mp hb).1] at hbusy

/-- R115: with nothing pending the block is idle or FAULTED. -/
theorem Invariant.idle (hi : Invariant s) (hrun : s.engine ≠ .faulted) (hbusy : s.busy = false) : Idle s := by
  have hbuilding := hi.not_building hbusy
  cases he : s.engine with
  | empty => exact ⟨.inl he, hbusy⟩
  | building => exact absurd he hbuilding
  | ready => exact ⟨.inr he, hbusy⟩
  | faulted => exact absurd he hrun

theorem Pending.not_faulted (hp : Pending c s) : s.engine ≠ .faulted := hp.2.1

/-- R30: of the pending commands BUILD alone stands in BUILDING. -/
theorem Invariant.building_iff_of_pending (hi : Invariant s) (hp : Pending c s) : s.engine = .building ↔ c = .build := by
  obtain ⟨hbusy, -, -, hcmd⟩ := hp
  rw [hi.building, hcmd]
  exact ⟨fun h => commandWord_injective h.2, fun h => ⟨hbusy, congrArg commandWord h⟩⟩

/-! ## The transactions of the HOST -/

/-- Registers that no pending command and no built table depends on. -/
theorem Invariant.registers (hi : Invariant s) (done ie : Bool) (srcAddr : Word) (ops : OperandRegs) (host : HostPort)
    (hwidth : ops.xwidth = s.ops.xwidth) (hheight : ops.yheight = s.ops.yheight) :
    Invariant { s with done := done, ie := ie, srcAddr := srcAddr, ops := ops, host := host } :=
  have hsame : SameBuffer s { s with done := done, ie := ie, srcAddr := srcAddr, ops := ops, host := host } :=
    ⟨rfl, rfl, rfl, rfl, rfl, rfl, hwidth, hheight⟩
  { hi with
    dims := fun h => (hi.dims h).of_sameBuffer hsame
    tables := fun h => (hi.tables h).of_sameBuffer hsame }

/-- R301, R314: fault entry cancels what is pending and leaves no built table to speak of. -/
theorem Invariant.fault (hi : Invariant s) {code : FaultCode} (hcode : code ≠ .none) (info : Word) (host : HostPort) :
    Invariant { raiseFault code info s with host := host } := by
  refine invariant_of_idle rfl ?src ?sum ?nz (by simp) (by simp [hcode]) (by simp [hcode]) (by simp)
  case src => simpa using hi.srcForm
  case sum => rw [raiseFault_sum]; split <;> simp [hi.sumForm]
  case nz => rw [raiseFault_nz]; split <;> simp [hi.nzForm]

/-- BUILD's checks are what the dimensions need (R191, R192). -/
theorem dimsHeld_startBuild (h : buildCheck s = none) (w : Word) : DimsHeld (latchCommand w (startBuild s)) := by
  obtain ⟨hw, hh, hfits, hwritten⟩ := buildCheck_none h
  have hprod : (asI32 s.ops.xwidth * asI32 s.ops.yheight).toNat =
      (asI32 s.ops.xwidth).toNat * (asI32 s.ops.yheight).toNat := Int.toNat_mul hw.le hh.le
  exact {
    width := Int.toNat_of_nonneg hw.le
    height := Int.toNat_of_nonneg hh.le
    widthPos := Int.lt_toNat.mpr hw
    heightPos := Int.lt_toNat.mpr hh
    fits := hprod ▸ Int.toNat_le.mpr hfits
    written := fun i hlt => hwritten i (hprod ▸ hlt) }

/-- R190 to R192: BUILD's acceptance, out of EMPTY. -/
theorem Invariant.acceptBuild (hi : Invariant s) (hrun : s.engine ≠ .faulted) (hcheck : buildCheck s = none) :
    Invariant (latchCommand (commandWord .build) (startBuild s)) where
  srcForm := hi.srcForm
  sumForm := rfl
  nzForm := rfl
  busyLegal _ := ⟨.build, rfl⟩
  building := ⟨fun _ => ⟨rfl, rfl⟩, fun _ => rfl⟩
  faultedIdle := nofun
  faultCode := ⟨nofun, fun h => absurd (hi.faultCode_none hrun) h⟩
  faultInfo := hi.faultInfo
  dims _ := dimsHeld_startBuild hcheck _
  tables := nofun
  pendingTables c _ hcmd hc := by cases commandWord_injective (c := .build) hcmd; cases hc
  pendingCell c _ hcmd hc := by cases commandWord_injective (c := .build) hcmd; cases hc
  pendingSpan c _ hcmd hc := by cases commandWord_injective (c := .build) hcmd; cases hc

/-- R260: the acceptance of any other command, which latches alone. -/
theorem Invariant.acceptOther (hi : Invariant s) (hc : c ≠ .build) (hrun : s.engine ≠ .faulted)
    (hbusy : s.busy = false) (hcheck : acceptCheck c s = none) : Invariant (latchCommand (commandWord c) s) :=
  have hsame : SameBuffer s (latchCommand (commandWord c) s) := ⟨rfl, rfl, rfl, rfl, rfl, rfl, rfl, rfl⟩
  have hbuilding := hi.not_building hbusy
  { hi with
    busyLegal := fun _ => ⟨c, rfl⟩
    building := ⟨fun h => absurd h hbuilding, fun h => absurd (commandWord_injective h.2) hc⟩
    faultedIdle := fun h => absurd h hrun
    dims := fun h => (hi.dims h).of_sameBuffer hsame
    tables := fun h => (hi.tables h).of_sameBuffer hsame
    pendingTables := by
      intro d _ hcmd hd
      cases commandWord_injective (c := c) hcmd
      exact (hi.idle hrun hbusy).1.resolve_left (acceptCheck_tables hcheck hd)
    pendingCell := by
      intro d _ hcmd hd
      cases commandWord_injective (c := c) hcmd
      exact acceptCheck_cell hcheck hd _
    pendingSpan := by
      intro d _ hcmd hd
      cases commandWord_injective (c := c) hcmd
      exact acceptCheck_span hcheck hd _ }

/-- No transaction of the HOST breaks the invariant. -/
theorem HostEffect.keeps_invariant (h : HostEffect s t) (hi : Invariant s) : Invariant t := by
  cases h with
  | fault code info host hrun hcode => exact hi.fault hcode info host
  | registers done ie srcAddr ops host hwidth hheight => exact hi.registers done ie srcAddr ops host hwidth hheight
  | load src srcAddr ops hrun hready hbusy hform =>
    exact invariant_of_idle hbusy (hform hi.srcForm) hi.sumForm hi.nzForm (hi.not_building hbusy) hi.faultCode
      hi.faultInfo (fun hr => absurd hr hready)
  | accept c hrun hbusy hcheck =>
    by_cases hc : c = .build
    · subst hc; exact hi.acceptBuild hrun (acceptCheck_build hcheck).2
    · rw [acceptStart_other hc]; exact hi.acceptOther hc hrun hbusy hcheck

/-! ## The completions of the ENGINE -/

/-- R193, R198: BUILD leaves READY with the tables of the recurrence, within the memories. -/
theorem Invariant.completeBuild (hi : Invariant s) (hp : Pending .build s) :
    Invariant (finishCommand (completeCommand .build s)) := by
  have hd := hi.dims (.inl ((hi.building_iff_of_pending hp).mpr rfl))
  have hcode := hi.faultCode_none hp.not_faulted
  have htable (unit : Byte → Word) :
      Memory.wf (Memory.ofListFrom 0 (scalarTable unit (srcCell s) s.tabW s.tabH)) = true :=
    wf_ofListFrom _ (by rw [length_scalarTable, Nat.mul_comm]; exact hd.fits)
  exact invariant_of_idle rfl hi.srcForm (htable pixelValue) (htable pixelNonZero) nofun
    ⟨nofun, fun h => absurd hcode h⟩ hi.faultInfo
    fun _ => ⟨⟨hd.width, hd.height, hd.widthPos, hd.heightPos, hd.fits, hd.written⟩, ⟨rfl, rfl⟩⟩

/-- R262: CLEAR leaves EMPTY with no cell written. -/
theorem Invariant.completeClear (hi : Invariant s) (hp : Pending .clear s) :
    Invariant (finishCommand (completeCommand .clear s)) :=
  invariant_of_idle rfl rfl rfl rfl nofun ⟨nofun, fun h => absurd (hi.faultCode_none hp.not_faulted) h⟩ hi.faultInfo nofun

/-- R261: no completion breaks the invariant. -/
theorem Invariant.complete (hi : Invariant s) (hp : Pending c s) : Invariant (finishCommand (completeCommand c s)) := by
  by_cases hb : c = .build
  · subst hb; exact hi.completeBuild hp
  by_cases hc : c = .clear
  · subst hc; exact hi.completeClear hp
  obtain ⟨res, hres⟩ := completeCommand_results hb hc s
  rw [hres]
  have hsame : SameBuffer s (finishCommand { s with res := res }) := ⟨rfl, rfl, rfl, rfl, rfl, rfl, rfl, rfl⟩
  exact invariant_of_idle rfl hi.srcForm hi.sumForm hi.nzForm (fun h => hb ((hi.building_iff_of_pending hp).mp h))
    hi.faultCode hi.faultInfo
    fun hr => ⟨(hi.dims (.inr hr)).of_sameBuffer hsame, (hi.tables hr).of_sameBuffer hsame⟩

/-! ## The step -/

theorem StepEffect.keeps_invariant (h : StepEffect s t) (hi : Invariant s) : Invariant t := by
  cases h with
  | host h => exact h.keeps_invariant hi
  | reset host => exact (atReset_resetBlock s host).invariant rfl rfl rfl
  | complete c hp => exact hi.complete hp

theorem Invariant.withScript (hi : Invariant s) (script : List Input) :
    Invariant { s with host := { s.host with script := script } } :=
  hi.registers s.done s.ie s.srcAddr s.ops { s.host with script := script } rfl rfl

/-- A step of either agent has one of the effects of `StepEffect`, from the state with its input off the script. -/
theorem Invariant.step_effect (hi : Invariant s) (h : step s = .next t) :
    ∃ script, StepEffect { s with host := { s.host with script := script } } t := by
  cases hscript : s.host.script with
  | nil =>
    rw [step_nil hscript] at h
    exact ⟨s.host.script, hi.engineTurn_effect h⟩
  | cons e rest =>
    rw [step_cons hscript] at h
    exact ⟨rest, (hi.withScript rest).takeInput_effect h⟩

end Invariant

/-- Settles O54, by the effects that a step can have, each of which keeps the invariant. -/
theorem stepKeepsInvariant : Obligations.StepKeepsInvariant := by
  intro s t hi h
  obtain ⟨script, heffect⟩ := hi.step_effect h
  exact heffect.keeps_invariant (hi.withScript script)

/-! ## The engine state -/

/-- The arrows of R30's diagram from `s` to `t`, or no arrow. -/
def EngineArrow (s t : State) : Prop :=
  t.engine = s.engine ∨ AtReset t ∨ t.engine = .faulted ∨
    (s.engine = .empty ∧ t.engine = .building ∧ t.busy = true ∧ t.lat.cmd = 0x00000001) ∨
    (Pending .build s ∧ s.engine = .building ∧ t.engine = .ready) ∨
    (Pending .clear s ∧ s.engine = .ready ∧ t.engine = .empty)

section EngineArrow

variable {s t : State} {c : Command}

/-- Of the transactions of the HOST only faults and BUILD's acceptance move the engine state. -/
theorem HostEffect.engineArrow (h : HostEffect s t) (hi : Invariant s) : EngineArrow s t := by
  cases h with
  | fault code info host => exact .inr (.inr (.inl rfl))
  | registers | load => exact .inl rfl
  | accept c hrun hbusy hcheck =>
    by_cases hc : c = .build
    · subst hc
      have hempty := (hi.idle hrun hbusy).1.resolve_right (acceptCheck_build hcheck).1
      exact .inr (.inr (.inr (.inl ⟨hempty, rfl, rfl, rfl⟩)))
    · rw [acceptStart_other hc]; exact .inl rfl

/-- Of the completions only those of BUILD and CLEAR move it. -/
theorem Invariant.complete_engineArrow (hi : Invariant s) (hp : Pending c s) :
    EngineArrow s (finishCommand (completeCommand c s)) := by
  by_cases hb : c = .build
  · subst hb
    exact .inr (.inr (.inr (.inr (.inl ⟨hp, (hi.building_iff_of_pending hp).mpr rfl, rfl⟩))))
  have hbuilding : s.engine ≠ .building := fun h => hb ((hi.building_iff_of_pending hp).mp h)
  by_cases hc : c = .clear
  · subst hc
    cases he : s.engine with
    | empty => exact .inl he.symm
    | building => exact absurd he hbuilding
    | ready => exact .inr (.inr (.inr (.inr (.inr ⟨hp, he, rfl⟩))))
    | faulted => exact absurd he hp.not_faulted
  · obtain ⟨res, hres⟩ := completeCommand_results hb hc s
    rw [hres]; exact .inl rfl

theorem StepEffect.engineArrow (h : StepEffect s t) (hi : Invariant s) : EngineArrow s t := by
  cases h with
  | host h => exact h.engineArrow hi
  | reset host => exact .inr (.inl (atReset_resetBlock s host))
  | complete c hp => exact hi.complete_engineArrow hp

end EngineArrow

/-- Settles O57, by the effects that a step can have, each of which follows an arrow of R30 or none. -/
theorem engineStateTransitions : Obligations.EngineStateTransitions := by
  intro s t hi h
  obtain ⟨script, heffect⟩ := hi.step_effect h
  have harrow := heffect.engineArrow (hi.withScript script)
  exact harrow

end Sys2Proof.Machine
end

section
/-! PROOFS. The memories in READY and the order of the HOST's transactions (20_memory.md R83, R94, R99;
43_construction.md R202). -/

namespace Sys2Proof.Machine

/-! ## In READY the source and the tables stand -/

section Ready

variable {s t : State} {c : Command}

/-- R264, R266, R267, R306: in READY the dimension and pixel writes and BUILD are refused, and fault entry drops tables
only out of BUILDING. -/
theorem HostEffect.sameBuffer (h : HostEffect s t) (hr : s.engine = .ready) : SameBuffer s t := by
  cases h with
  | fault code info host => constructor <;> simp [hr]
  | registers done ie srcAddr ops host hwidth hheight => exact ⟨rfl, rfl, rfl, rfl, rfl, rfl, hwidth, hheight⟩
  | load src srcAddr ops hrun hready => exact absurd hr hready
  | accept c hrun hbusy hcheck =>
    have hc : c ≠ .build := by rintro rfl; exact (acceptCheck_build hcheck).1 hr
    rw [acceptStart_other hc]
    exact ⟨rfl, rfl, rfl, rfl, rfl, rfl, rfl, rfl⟩

/-- R261: every completion but BUILD's and CLEAR's writes result registers alone. -/
theorem sameBuffer_complete (hb : c ≠ .build) (hc : c ≠ .clear) (s : State) :
    SameBuffer s (finishCommand (completeCommand c s)) := by
  obtain ⟨res, hres⟩ := completeCommand_results hb hc s
  rw [hres]
  exact ⟨rfl, rfl, rfl, rfl, rfl, rfl, rfl, rfl⟩

/-- R202: in READY a step keeps the buffer, resets the block, or completes a CLEAR; no BUILD is pending there. -/
theorem StepEffect.ready_cases (h : StepEffect s t) (hi : Invariant s) (hr : s.engine = .ready) :
    SameBuffer s t ∨ AtReset t ∨ (Pending .clear s ∧ t.engine = .empty) := by
  cases h with
  | host h => exact .inl (h.sameBuffer hr)
  | reset host => exact .inr (.inl (atReset_resetBlock s host))
  | complete c hp =>
    have hb : c ≠ .build := fun h => by simp [(hi.building_iff_of_pending hp).mpr h] at hr
    by_cases hc : c = .clear
    · subst hc; exact .inr (.inr ⟨hp, rfl⟩)
    · exact .inl (sameBuffer_complete hb hc s)

end Ready

/-- Settles O58, by the effects that a step can have in READY. -/
theorem readyIsImmutable : Obligations.ReadyIsImmutable := by
  intro s t hi hr h
  obtain ⟨script, heffect⟩ := hi.step_effect h
  rcases heffect.ready_cases (hi.withScript script) hr with hsame | hreset | hclear
  · exact .inl ⟨hsame.src, hsame.sum, hsame.nz, hsame.tabW, hsame.tabH⟩
  · exact .inr (.inl hreset)
  · exact .inr (.inr hclear)

/-! ## The step of a HOST transaction -/

/-- R110, R340: with RST released the HOST's turn performs the operation that its transaction decodes to. -/
theorem hostTurn_of_decode {s : State} {x : BusTxn} {i : Instr} (hrst : s.host.rst = false) (hd : decode x = .ok i) :
    hostTurn x s = exec i s := by
  simp [hostTurn, hrst, hd]

/-- Settles O1: the decoder answers well-formed operations alone, and the step takes the input off the script and gives
the HOST its turn. -/
theorem stepRunsDecodedTransaction : Obligations.StepRunsDecodedTransaction :=
  fun _ _ _ _ hscript hrst hd => ⟨wellFormed_of_decode hd, (step_cons hscript).trans (hostTurn_of_decode hrst hd)⟩

end Sys2Proof.Machine
end

section
/-! PROOFS. Decoding and encoding undo each other, a command word that no command has, and what a register read
answers (30_encoding.md R110 to R114, R118; 45_control.md R274). -/

namespace Sys2Proof

/-- Settles O4: the decoder computes on a command word and on the offset of each row of R111, and the operations that
carry their offset have a lemma each. -/
theorem decodeOfEncodeAgrees : Obligations.DecodeOfEncodeAgrees := by
  intro i
  cases i with
  | wrRoOrReserved off data => exact Laws.RoundTrip.wrRoOrReserved off data
  | busMalformed dir off size => exact Laws.RoundTrip.busMalformed dir off size
  | rd off => exact Laws.RoundTrip.rd off
  | _ => exact fun _ => rfl

/-! ## From a transaction to its operation and back -/

theorem malformed_eq_false_iff {off : Offset} {size : Nat} :
    malformed off size = false ↔ size = 4 ∧ off.toNat % 4 = 0 := by
  simp [malformed]

@[simp] theorem encode_instr (c : Command) : encode c.instr = encodeCommand c := by
  cases c <;> rfl

/-- R111: each row's operation is encoded as the write of the row. -/
theorem encode_of_mem_writeOperations {data : Word} {off : Offset} {i : Instr} (h : (off, i) ∈ writeOperations data) :
    encode i = .write off 4 data := by
  have hrows : ∀ p ∈ writeOperations data, encode p.2 = .write p.1 4 data := by
    simp [writeOperations, encode]
  exact hrows _ h

@[simp] theorem encode_decodeWrite (off : Offset) (data : Word) : encode (decodeWrite off data) = .write off 4 data := by
  rcases decodeWrite_cases off data with hrow | ⟨hother, -⟩
  · exact encode_of_mem_writeOperations hrow
  · rw [hother]; rfl

/-- Settles O5, along the decoder's branches: a well-formed access is 4 bytes wide, a command is written as its word,
and every other write is encoded at its own offset. -/
theorem encodeOfDecodeAgrees : Obligations.EncodeOfDecodeAgrees := by
  intro t i h hwrite
  cases t with
  | read off size =>
    simp only [decode] at h
    split at h
    next => cases h; rfl
    next hm =>
      obtain ⟨rfl, -⟩ := malformed_eq_false_iff.mp (Bool.eq_false_of_not_eq_true hm)
      cases h; rfl
  | write off size data =>
    simp only [decode] at h
    split at h
    next => cases h; exact absurd rfl (hwrite off size)
    next hm =>
      obtain ⟨rfl, -⟩ := malformed_eq_false_iff.mp (Bool.eq_false_of_not_eq_true hm)
      split at h
      next hcmd =>
        split at h
        next c hc =>
          cases h
          rw [encode_instr, encodeCommand, hcmd, decodeCommand_eq_some_iff.mp hc]
        next => cases h
      next => cases h; exact encode_decodeWrite off data

namespace Machine

/-! ## Illegal command words -/

/-- R118, R260: with RST released a CMD write of no command's word is an acceptance that finds the word illegal. -/
theorem hostTurn_of_illegal {s : State} {w : Word} (hrst : s.host.rst = false) (hw : ∀ c, w ≠ commandWord c) :
    hostTurn (.write cmdOffset 4 w) s = .next (acceptIllegal w s) := by
  have hd : decode (.write cmdOffset 4 w) = .error (.illegalCommand w) := by
    rw [decode_cmdWrite, decodeCommand_eq_none_iff.mpr hw]
  simp [hostTurn, hrst, hd]

/-- Settles O6: no command has such a word, and acceptance makes the checks of FAULTED and BUSY before its own. -/
theorem illegalCommandWordsFault : Obligations.IllegalCommandWordsFault := by
  intro s w hrst hillegal
  have hw : ∀ c, w ≠ commandWord c := by
    rintro c rfl
    cases c <;> exact hillegal (by decide)
  have hturn := hostTurn_of_illegal hrst hw
  exact ⟨fun hf => hturn.trans (congrArg _ (acceptCommand_faulted hf)),
    fun hf hb => hturn.trans (congrArg _ (acceptCommand_busy hf hb)),
    fun hf hb => hturn.trans (congrArg _ (acceptCommand_rejected hf hb rfl))⟩

/-! ## State checks -/

/-- R305: in EMPTY a query or table read fails its first check. -/
theorem acceptCheck_empty {s : State} {c : Command} (hc : c.needsTables = true) (he : s.engine = .empty) :
    acceptCheck c s = some (.notReady, commandWord c) := by
  cases c with
  | qsum | qavg | qnzc | qnzavg | trdSum | trdNz => simp [acceptCheck, needTables, he]
  | nop | build | clear | spanSum | spanNzc => cases hc

/-- R306: in READY BUILD fails its first check. -/
theorem acceptCheck_build_ready {s : State} (hr : s.engine = .ready) :
    acceptCheck .build s = some (.immutable, commandWord .build) := by
  simp [acceptCheck, needNoTables, hr]

/-- Settles O23: every command's meaning is its acceptance, whose first failing check names the fault. -/
theorem commandStateChecks : Obligations.CommandStateChecks := by
  intro c s
  rw [exec_command]
  refine ⟨fun hf => ?_, fun hf hb => ?_, fun hc he hb => ?_, fun hc hr hb => ?_⟩
  · rw [acceptCommand_faulted hf]
  · rw [acceptCommand_busy hf hb]
  · rw [acceptCommand_rejected (by simp [he]) hb (acceptCheck_empty hc he)]
  · subst hc
    rw [acceptCommand_rejected (by simp [hr]) hb (acceptCheck_build_ready hr)]
    rfl

/-! ## Register reads -/

/-- R34, R112: CTRL reads as IE in bit 1. -/
theorem ctrlWord_eq (s : State) : ctrlWord s = if s.ie then 2 else 0 := by
  cases h : s.ie <;> simp [ctrlWord, h]

/-- R49, R112: an offset that no readable register has reads 0. -/
theorem readRegister_eq_zero {s : State} {off : Offset} (h : ∀ p ∈ readableRegisters s, off ≠ p.1) :
    readRegister off s = 0 := by
  rcases lookup_cases (readableRegisters s) off with ⟨v, -, hrow⟩ | ⟨hnone, -⟩
  · exact absurd rfl (h _ hrow)
  · simp [readRegister, hnone]

/-- R32: no readable register is at a write-only or a reserved offset. -/
theorem readableRegisters_offset (s : State) : ∀ p ∈ readableRegisters s,
    p.1 ∉ ([0x020, 0x024, 0x028] : List Offset) ∧ p.1.toNat < 0x060 := by
  simp [readableRegisters]

/-- Settles O12: each readable offset finds its row of the register table, and the other offsets have none. -/
theorem readsReturnRegisters : Obligations.ReadsReturnRegisters := by
  intro s off
  refine ⟨rfl, rfl, rfl, ctrlWord_eq s, rfl, rfl, rfl, rfl, rfl, rfl, rfl, rfl, rfl, rfl, rfl, rfl, rfl, rfl, rfl, rfl,
    rfl, rfl, fun hoff => readRegister_eq_zero ?_⟩
  rintro p hp rfl
  obtain ⟨hreadable, hlow⟩ := readableRegisters_offset s p hp
  rcases hoff with hwriteOnly | hreserved
  · exact hreadable hwriteOnly
  · exact absurd hlow (Nat.not_lt.mpr hreserved)

end Machine

end Sys2Proof
end

section
/-! PROOFS. The Rect utility, one axis at a time (41_rect.md R140 to R148), and the two queries that report the clamped
rectangle beside an exact total (44_query.md R222, R224). -/

namespace Sys2Proof.Machine

/-! ## Clamping a coordinate -/

section Clamp

variable {v lo hi : Int}

theorem clamp_mem (h : lo ≤ hi) : lo ≤ clamp v lo hi ∧ clamp v lo hi ≤ hi :=
  ⟨le_min h (le_max_right v lo), min_le_left hi _⟩

theorem clamp_of_mem (hl : lo ≤ v) (hh : v ≤ hi) : clamp v lo hi = v := by
  rw [clamp, max_eq_left hl, min_eq_right hh]

theorem clamp_of_le (h : lo ≤ hi) (hv : v ≤ lo) : clamp v lo hi = lo := by
  rw [clamp, max_eq_right hv, min_eq_right h]

theorem clamp_of_ge (hv : hi ≤ v) : clamp v lo hi = hi :=
  min_eq_left (hv.trans (le_max_left v lo))

theorem clamp_clamp (h : lo ≤ hi) : clamp (clamp v lo hi) lo hi = clamp v lo hi :=
  clamp_of_mem (clamp_mem h).1 (clamp_mem h).2

/-- R142: a coordinate stays where it is in range, and moves onto the nearer edge elsewhere. -/
theorem clamp_eq_ite (h : lo ≤ hi) : clamp v lo hi = if v < lo then lo else if v ≤ hi then v else hi := by
  split_ifs with hl hh
  · exact clamp_of_le h hl.le
  · exact clamp_of_mem (not_lt.mp hl) hh
  · exact clamp_of_ge (not_le.mp hh).le

end Clamp

/-! ## The extent of a rectangle along an axis -/

/-- The number of cells from `u` to `v`, both included, in either order (R144). -/
def extent (u v : Int) : Nat := (v - u).natAbs + 1

theorem getWidth_eq_extent (r : Rect) : getWidth r = extent r.x0 r.x1 := rfl

theorem getHeight_eq_extent (r : Rect) : getHeight r = extent r.y0 r.y1 := rfl

section Extent

variable {u v lo hi : Int}

theorem extent_cast (u v : Int) : (extent u v : Int) = |v - u| + 1 := by
  rw [extent, Nat.cast_add, Int.natCast_natAbs, Nat.cast_one]

theorem extent_pos (u v : Int) : 1 ≤ extent u v := Nat.le_add_left 1 _

@[simp] theorem extent_self (u : Int) : extent u u = 1 := by simp [extent]

/-- R144: the order of the corners does not matter. -/
theorem extent_min_max (u v : Int) : extent (min u v) (max u v) = extent u v := by
  rcases le_total u v with h | h
  · rw [min_eq_left h, max_eq_right h]
  · rw [min_eq_right h, max_eq_left h, extent, extent, ← Int.natAbs_neg, neg_sub]

/-- R144: between two signed words there are at most 2^32 cells. -/
theorem extent_asI32_le (a b : Word) : extent (asI32 a) (asI32 b) ≤ 2 ^ 32 := by
  have := a.two_mul_toInt_lt
  have := a.le_two_mul_toInt
  have := b.two_mul_toInt_lt
  have := b.le_two_mul_toInt
  unfold extent asI32; omega

/-- R148: clamping both coordinates brings them no further apart. -/
theorem extent_clamp_le (u v lo hi : Int) : extent (clamp u lo hi) (clamp v lo hi) ≤ extent u v := by
  unfold extent clamp; omega

theorem extent_clamp_min_max_le (u v lo hi : Int) :
    extent (clamp (min u v) lo hi) (clamp (max u v) lo hi) ≤ extent u v :=
  (extent_clamp_le _ _ lo hi).trans_eq (extent_min_max u v)

/-- R148: an axis with both coordinates in range is ordered and otherwise kept. -/
theorem clamp_min_max_of_mem (hlu : lo ≤ u) (huh : u ≤ hi) (hlv : lo ≤ v) (hvh : v ≤ hi) :
    clamp (min u v) lo hi = min u v ∧ clamp (max u v) lo hi = max u v ∧
      extent (clamp (min u v) lo hi) (clamp (max u v) lo hi) = extent u v := by
  have hmin : clamp (min u v) lo hi = min u v := clamp_of_mem (le_min hlu hlv) (min_le_of_left_le huh)
  have hmax : clamp (max u v) lo hi = max u v := clamp_of_mem (le_max_of_le_left hlu) (max_le huh hvh)
  exact ⟨hmin, hmax, by rw [hmin, hmax, extent_min_max]⟩

/-- R148: an axis one cell wide stays one cell wide, wherever it lies. -/
theorem extent_clamp_min_max_of_eq (h : u = v) :
    extent (clamp (min u v) lo hi) (clamp (max u v) lo hi) = extent u v := by
  rw [h, min_self, max_self, extent_self, extent_self]

/-- R145: an axis wholly beyond the upper edge is clamped onto that edge. -/
theorem clamp_min_max_of_ge (hu : hi ≤ u) (hv : hi ≤ v) :
    clamp (min u v) lo hi = hi ∧ clamp (max u v) lo hi = hi :=
  ⟨clamp_of_ge (le_min hu hv), clamp_of_ge (le_max_of_le_left hu)⟩

/-- R145: an axis wholly beyond the lower edge is clamped onto that edge. -/
theorem clamp_min_max_of_le (h : lo ≤ hi) (hu : u ≤ lo) (hv : v ≤ lo) :
    clamp (min u v) lo hi = lo ∧ clamp (max u v) lo hi = lo :=
  ⟨clamp_of_le h (min_le_of_left_le hu), clamp_of_le h (max_le hu hv)⟩

end Extent

/-! ## Settled obligations on rectangles -/

/-- R143: the clamped rectangle, each axis ordered and then clamped. -/
theorem clampRect_eq (w h : Nat) (q : Rect) :
    clampRect w h q = ⟨clamp (min q.x0 q.x1) 0 (w - 1), clamp (min q.y0 q.y1) 0 (h - 1),
      clamp (max q.x0 q.x1) 0 (w - 1), clamp (max q.y0 q.y1) 0 (h - 1)⟩ := rfl

/-- Settles O43: the corners are cells of the buffer, and each axis beyond an edge lands on it. -/
theorem clampedRectNeverEmpty : Obligations.ClampedRectNeverEmpty := by
  intro w h q hw hh c
  refine ⟨?inside, fun hx0 hx1 => clamp_min_max_of_ge (by omega) (by omega),
    fun hx0 hx1 => clamp_min_max_of_le (by omega) hx0.le hx1.le,
    fun hy0 hy1 => clamp_min_max_of_ge (by omega) (by omega),
    fun hy0 hy1 => clamp_min_max_of_le (by omega) hy0.le hy1.le⟩
  case inside =>
    obtain ⟨x0, y0, x1, y1, hq, hx, hxw, hy, hyh⟩ := clampRect_corners hw hh q
    simp only [c, hq]
    omega

/-- Settles O44: a clamped coordinate is in range, and the smaller and the larger of two coordinates do not depend on
their order. -/
theorem rectAlgebra : Obligations.RectAlgebra := by
  refine ⟨fun r minX minY maxX maxY hx hy => ?idempotent, fun x0 y0 x1 y1 => ?normalized,
    fun w h x0 y0 x1 y1 => ⟨?corners, ?columns, ?rows⟩⟩
  case idempotent => simp only [intersected, clamp_clamp hx, clamp_clamp hy]
  case normalized => simp only [normalized, min_comm x0, max_comm x0, min_comm y0, max_comm y0]
  case corners => simp only [clampRect_eq, min_comm x0, max_comm x0, min_comm y0, max_comm y0]
  case columns => simp only [clampRect_eq, min_comm x0, max_comm x0]
  case rows => simp only [clampRect_eq, min_comm y0, max_comm y0]

/-- Settles O45: width and height are extents, and each axis is ordered and clamped by itself. -/
theorem widthAsymmetry : Obligations.WidthAsymmetry := by
  simp only [Obligations.WidthAsymmetry, getWidth_eq_extent, getHeight_eq_extent, clampRect_eq]
  refine ⟨fun s => ⟨rfl, extent_pos _ _, extent_asI32_le _ _, extent_pos _ _, extent_asI32_le _ _⟩,
    fun r => ⟨extent_cast _ _, extent_cast _ _, extent_min_max _ _, extent_min_max _ _⟩, fun w h q hw hh => ?_⟩
  have hx : (0 : Int) ≤ w - 1 := by omega
  have hy : (0 : Int) ≤ h - 1 := by omega
  exact ⟨⟨clamp_eq_ite hx, clamp_eq_ite hx, clamp_eq_ite hy, clamp_eq_ite hy⟩,
    extent_clamp_min_max_le _ _ _ _, extent_clamp_min_max_le _ _ _ _,
    clamp_min_max_of_mem, clamp_min_max_of_mem, extent_clamp_min_max_of_eq, extent_clamp_min_max_of_eq⟩

/-! ## Settled obligations on queries -/

/-- What the completion of a query without an average leaves: RES_U32 and RECT are written, BUSY and DONE are those of
every completion, and nothing else changes, RES_F64 included (R222, R224, R261). -/
theorem finish_total (c : Rect) (u : Word) (s : State) :
    let t := finishCommand (writeRect c (writeU32 u s))
    t.res.u32 = u ∧
    t = { s with busy := false, done := true, res := { s.res with
      u32 := t.res.u32
      rectX0 := asU32 c.x0, rectY0 := asU32 c.y0
      rectX1 := asU32 c.x1, rectY1 := asU32 c.y1 } } :=
  ⟨rfl, rfl⟩

/-- Settles O35: the tables hold exact corner sums, so inclusion and exclusion gives the rescanned sum. -/
theorem qsumIsExact : Obligations.QsumIsExact := by
  intro s hi hp
  have hr := hi.ready_of_pending hp rfl
  obtain ⟨hu32, hframe⟩ := finish_total (clampedQuery s) (querySum s) s
  exact ⟨_, engineTurn_pending hp, (congrArg BitVec.toNat hu32).trans (toNat_querySum hi hr), hframe⟩

/-- Settles O36: the tables hold exact corner counts, so inclusion and exclusion gives the rescanned count. -/
theorem qnzcIsExact : Obligations.QnzcIsExact := by
  intro s hi hp
  have hr := hi.ready_of_pending hp rfl
  obtain ⟨hu32, hframe⟩ := finish_total (clampedQuery s) (queryCount s) s
  exact ⟨_, engineTurn_pending hp, (congrArg BitVec.toNat hu32).trans (toNat_queryCount hi hr), hframe⟩

end Sys2Proof.Machine
end

section
/-! PROOFS. The lane primitives and the spans (42_lane_primitives.md R160 to R174): the shifted adds widen each lane's
window of summed lanes until it reaches lane 0, a horizontal reduction is a sum without order, and the span commands
return sums that do not reach 2^32. -/

namespace Sys2Proof.Machine

/-! ## Sums of words -/

/-- A sum of words is the exact sum of their values modulo 2^32, in any order (R168). -/
theorem toNat_sum_word {ι : Type*} (t : Finset ι) (f : ι → Word) :
    (∑ i ∈ t, f i).toNat = (∑ i ∈ t, (f i).toNat) % 2 ^ 32 := by
  induction t using Finset.cons_induction with
  | empty => rfl
  | cons i t hi ih => rw [Finset.sum_cons, Finset.sum_cons, BitVec.toNat_add, ih, Nat.add_mod_mod]

theorem sumRange_eq_sum (f : Nat → Word) (n a : Nat) : sumRange f n a = ∑ i ∈ Finset.range n, f (a + i) := by
  induction n with
  | zero => rfl
  | succ n ih => rw [sumRange_succ_last, ih, Finset.sum_range_succ]

/-! ## The sums of the lanes up to each lane -/

section LanePrefix

variable {L : Nat}

/-- The sum of the `width` lanes of `v` that end at lane `k`, where the lanes below lane 0 count for nothing. -/
def laneWindow (v : Lanes L Word) (width k : Nat) : Word :=
  ∑ j : Fin L, if j.val ≤ k ∧ k < j.val + width then v j else 0

theorem laneWindow_one (v : Lanes L Word) (k : Fin L) : laneWindow v 1 k = v k := by
  have only (j : Fin L) : (j.val ≤ k.val ∧ k.val < j.val + 1) ↔ j = k := by rw [Fin.ext_iff]; omega
  simp only [laneWindow, only, Finset.sum_ite_eq', Finset.mem_univ, if_true]

/-- A window is its upper part and the window that ends below that part. -/
theorem laneWindow_add (v : Lanes L Word) (m n k : Nat) :
    laneWindow v (m + n) k = laneWindow v m k + if m ≤ k then laneWindow v n (k - m) else 0 := by
  by_cases hm : m ≤ k
  · rw [if_pos hm, laneWindow, laneWindow, laneWindow, ← Finset.sum_add_distrib]
    refine Finset.sum_congr rfl fun j _ => ?_
    by_cases hupper : k < j.val + m
    · have hlower : ¬ (j.val ≤ k - m ∧ k - m < j.val + n) := by omega
      have hwhole : k < j.val + (m + n) := by omega
      simp [hupper, hlower, hwhole]
    · have hlower : (j.val ≤ k - m ∧ k - m < j.val + n) ↔ (j.val ≤ k ∧ k < j.val + (m + n)) := by omega
      simp [hupper, hlower]
  · rw [if_neg hm, add_zero]
    refine Finset.sum_congr rfl fun j _ => if_congr ?_ rfl rfl
    omega

/-- A window as wide as the vector reaches lane 0. -/
theorem laneWindow_full (v : Lanes L Word) (k : Fin L) : laneWindow v L k = ∑ j : Fin L, if j ≤ k then v j else 0 := by
  refine Finset.sum_congr rfl fun j _ => if_congr ?_ rfl rfl
  rw [Fin.le_def]; omega

/-- Every lane of `p` is the window of `v` that ends there. -/
def HoldsWindows (v : Lanes L Word) (width : Nat) (p : Lanes L Word) : Prop :=
  ∀ k : Fin L, p k = laneWindow v width k

theorem holdsWindows_one (v : Lanes L Word) : HoldsWindows v 1 v := fun k => (laneWindow_one v k).symm

/-- R166: adding the lanes shifted up by the windows' width doubles the windows. -/
theorem HoldsWindows.add_shiftUp {v p : Lanes L Word} {s : Nat} (h : HoldsWindows v s p) :
    HoldsWindows v (s + s) (laneAdd p (laneShiftUp p s)) := by
  intro k
  rw [laneWindow_add, laneAdd, laneShiftUp, h k]
  simp only [h _]

/-- R166: the shifts of either lane count widen the windows to the whole vector. -/
theorem holdsWindows_lanePrefix (hL : L = 8 ∨ L = 16) (v : Lanes L Word) : HoldsWindows v L (lanePrefix v) := by
  have four := (holdsWindows_one v).add_shiftUp.add_shiftUp
  rcases hL with rfl | rfl
  · exact four.add_shiftUp
  · exact four.add_shiftUp.add_shiftUp

/-- R166: the shifted adds leave in each lane the sum of the lanes up to it. -/
theorem lanePrefix_eq_sum (hL : L = 8 ∨ L = 16) (v : Lanes L Word) (k : Fin L) :
    lanePrefix v k = ∑ j : Fin L, if j ≤ k then v j else 0 :=
  (holdsWindows_lanePrefix hL v k).trans (laneWindow_full v k)

end LanePrefix

/-- Settles O46: each shifted add doubles the window of lanes that a lane has summed. -/
theorem lanePrefixSums : Obligations.LanePrefixSums := by
  intro L hL v k
  rw [lanePrefix_eq_sum hL, toNat_sum_word]
  simp only [apply_ite BitVec.toNat]
  rfl

/-! ## Horizontal reduction -/

section Reduction

variable {L : Nat}

/-- R168: the reduction is a sum, whatever its order. -/
theorem hreduce_eq_sum (v : Lanes L Word) : hreduce v = ∑ k : Fin L, v k := by
  rw [hreduce, ← List.sum_eq_foldl, List.sum_ofFn]

@[simp] theorem hreduce_laneAdd (a b : Lanes L Word) : hreduce (laneAdd a b) = hreduce a + hreduce b := by
  simp only [hreduce_eq_sum, laneAdd, Finset.sum_add_distrib]

@[simp] theorem hreduce_laneBroadcast_zero : hreduce (laneBroadcast (L := L) 0) = 0 := by
  simp only [hreduce_eq_sum, laneBroadcast, Finset.sum_const_zero]

end Reduction

/-- Settles O47: the reduction is a sum of words. -/
theorem horizontalReduction : Obligations.HorizontalReduction := by
  intro L v
  rw [hreduce_eq_sum, toNat_sum_word]

/-! ## The vectorised spans -/

section Spans

variable {L : Nat} {lane : Lanes L Byte → Lanes L Word} {unit : Byte → Word} (cell : Nat → Byte)

/-- A lane group reduces to the scalar sum over its cells. -/
theorem hreduce_laneLoad (hlane : ∀ b k, lane b k = unit (b k)) (i : Nat) :
    hreduce (lane (laneLoad L cell i)) = sumRange (fun i => unit (cell i)) L i := by
  rw [hreduce_eq_sum, sumRange_eq_sum, Finset.sum_range]
  simp only [hlane, laneLoad]

/-- The lane groups of R171 reduce to what was accumulated before them and the scalar sum over their cells. -/
theorem hreduce_spanGroups (hlane : ∀ b k, lane b k = unit (b k)) (g i : Nat) (acc : Lanes L Word) :
    hreduce (spanGroups lane cell g i acc) = hreduce acc + sumRange (fun i => unit (cell i)) (L * g) i := by
  induction g generalizing i acc with
  | zero => simp [spanGroups]
  | succ g ih =>
    rw [spanGroups, ih, hreduce_laneAdd, hreduce_laneLoad cell hlane, Nat.mul_succ, Nat.add_comm (L * g), sumRange_add,
      add_assoc]

/-- R171: full lane groups and a scalar tail give the scalar sum, where a lane holds what the scalar rule adds. -/
theorem spanVec_eq_sumRange (hlane : ∀ b k, lane b k = unit (b k)) (a n : Nat) :
    spanVec L lane unit cell a n = sumRange (fun i => unit (cell i)) n a := by
  rw [spanVec, hreduce_spanGroups cell hlane, hreduce_laneBroadcast_zero, zero_add, ← sumRange_add, Nat.div_add_mod]

end Spans

/-- R162: a widened lane is the scalar pixel value. -/
theorem laneWiden_apply {L : Nat} (b : Lanes L Byte) (k : Fin L) : laneWiden b k = pixelValue (b k) := rfl

/-- R163: a lane of the mask is the scalar count indicator. -/
theorem laneNzmask_apply {L : Nat} (b : Lanes L Byte) (k : Fin L) : laneNzmask b k = pixelNonZero (b k) := rfl

/-- Settles O48: widening and the non-zero mask are, lane by lane, what the scalar rules add. -/
theorem spanPathsAgree : Obligations.SpanPathsAgree :=
  fun _ _ s a n => ⟨spanVec_eq_sumRange (srcCell s) laneWiden_apply a n,
    spanVec_eq_sumRange (srcCell s) laneNzmask_apply a n⟩

/-! ## The results of the span commands -/

section Results

variable {s : State} {a n : Nat}

/-- R174: over at most `MAX_CELLS` pixels no sum reaches 2^32. -/
theorem toNat_sumRange_of_le {f : Nat → Word} (hf : ∀ i, (f i).toNat ≤ 255) (hn : n ≤ Config.maxCells) :
    (sumRange f n a).toNat = ∑ i ∈ Finset.range n, (f (a + i)).toNat := by
  rw [toNat_sumRange]
  refine Nat.mod_eq_of_lt ?_
  calc ∑ i ∈ Finset.range n, (f (a + i)).toNat ≤ n * 255 := by
        simpa using Finset.sum_le_card_nsmul (Finset.range n) _ 255 fun i _ => hf (a + i)
    _ ≤ Config.maxCells * 255 := by gcongr
    _ < 2 ^ 32 := by decide

/-- R170, R174: the scalar span sum is exact. -/
theorem toNat_spanSum (hn : n ≤ Config.maxCells) :
    (spanSum s a n).toNat = ∑ k ∈ Finset.range n, pixelNat s (a + k) := by
  have hf (v : Byte) : (pixelValue v).toNat ≤ 255 := by rw [toNat_pixelValue]; have := v.isLt; omega
  rw [spanSum, toNat_sumRange_of_le (fun _ => hf _) hn]
  simp only [toNat_pixelValue, pixelNat]

/-- R170, R174: the scalar span count is exact. -/
theorem toNat_spanNzc (hn : n ≤ Config.maxCells) :
    (spanNzc s a n).toNat = ∑ k ∈ Finset.range n, nonZeroNat s (a + k) := by
  have hf (v : Byte) : (pixelNonZero v).toNat ≤ 255 := by rw [toNat_pixelNonZero]; split <;> omega
  rw [spanNzc, toNat_sumRange_of_le (fun _ => hf _) hn]
  simp only [toNat_pixelNonZero, nonZeroNat]

end Results

/-- What the completion of a command that only writes RES_U32 leaves: BUSY and DONE are those of every completion, and
nothing else changes (R172, R173, R261). -/
theorem finish_u32 (u : Word) (s : State) :
    let t := finishCommand (writeU32 u s)
    t.res.u32 = u ∧ t = { s with busy := false, done := true, res := { s.res with u32 := t.res.u32 } } :=
  ⟨rfl, rfl⟩

/-- Settles O42: a latched span that lies in SRC is too short for its sum or count to wrap. -/
theorem spanResultsAreExact : Obligations.SpanResultsAreExact := by
  intro s hfits
  have hn : spanCount s ≤ Config.maxCells := (Nat.le_add_left _ _).trans hfits
  refine ⟨fun hp => ?sum, fun hp => ?count⟩
  case sum =>
    obtain ⟨hu32, hframe⟩ := finish_u32 (spanSum s (spanStart s) (spanCount s)) s
    exact ⟨_, engineTurn_pending hp, (congrArg BitVec.toNat hu32).trans (toNat_spanSum hn), hframe⟩
  case count =>
    obtain ⟨hu32, hframe⟩ := finish_u32 (spanNzc s (spanStart s) (spanCount s)) s
    exact ⟨_, engineTurn_pending hp, (congrArg BitVec.toNat hu32).trans (toNat_spanNzc hn), hframe⟩

end Sys2Proof.Machine
end

section
/-! PROOFS. The construction of the tables (43_construction.md R190 to R200): BUILD's checks and acceptance, its
completion by the scalar recurrence, the exact corner sums that the recurrence leaves and what follows from them, and
the vectorised rows. -/

namespace Sys2Proof.Machine

/-! ## BUILD's acceptance -/

section Acceptance

variable {s : State}

/-- R191: the lowest unwritten index is found. -/
theorem firstUnwritten_eq_some {n i : Nat} (hi : i < n) (hgap : srcValid s i = false)
    (hbelow : ∀ j, j < i → srcValid s j = true) : firstUnwritten s n 0 = some i := by
  cases hfirst : firstUnwritten s n 0 with
  | none =>
    have hwritten := firstUnwritten_none.mp hfirst i (Nat.zero_le i) (by omega)
    simp [hgap] at hwritten
  | some k =>
    obtain ⟨-, -, hkgap, hkbelow⟩ := firstUnwritten_some hfirst
    rcases Nat.lt_trichotomy k i with hlt | rfl | hgt
    · simp [hbelow k hlt] at hkgap
    · rfl
    · simp [hkbelow i (Nat.zero_le i) hgt] at hgap

/-- R191: a dimension that is not positive fails the first check. -/
theorem buildCheck_badDim (h : asI32 s.ops.xwidth ≤ 0 ∨ asI32 s.ops.yheight ≤ 0) :
    buildCheck s = some (.badDim, commandWord .build) := if_pos h

section LegalDimensions

variable (hw : 0 < asI32 s.ops.xwidth) (hh : 0 < asI32 s.ops.yheight)
include hw hh

/-- R191: an exact product above `MAX_CELLS` fails the second check. -/
theorem buildCheck_size (hsize : Config.maxCells < asI32 s.ops.xwidth * asI32 s.ops.yheight) :
    buildCheck s = some (.size, commandWord .build) :=
  (if_neg (by omega)).trans (if_pos hsize)

/-- R191: a buffer that fits is left to the check for unwritten pixels. -/
theorem buildCheck_fits (hfits : asI32 s.ops.xwidth * asI32 s.ops.yheight ≤ Config.maxCells) :
    buildCheck s = (firstUnwritten s (asI32 s.ops.xwidth * asI32 s.ops.yheight).toNat 0).map
      fun i => (.srcUnwritten, BitVec.ofNat 32 i) := by
  rw [buildCheck, if_neg (by omega), if_neg (by omega)]
  cases firstUnwritten s (asI32 s.ops.xwidth * asI32 s.ops.yheight).toNat 0 <;> rfl

end LegalDimensions

/-- R306: in EMPTY the checks of BUILD are its own. -/
theorem acceptCheck_build_empty (he : s.engine = .empty) : acceptCheck .build s = buildCheck s := by
  have hnone : needNoTables (commandWord .build) s = none := needNoTables_none.mpr (by simp [he])
  rw [acceptCheck, hnone, Option.none_or]

/-- R260: an idle block that finds a failing check raises the fault the check names. -/
theorem exec_command_rejected {c : Command} {code : FaultCode} {info : Word} (hidle : Idle s)
    (hc : acceptCheck c s = some (code, info)) : exec c.instr s = .next (raiseFault code info s) := by
  rw [exec_command, acceptCommand_rejected (Idle_not_faulted hidle) hidle.2 hc]

end Acceptance

/-- Settles O28: with legal dimensions the only check left is that of the pixels, and all of them are written. -/
theorem buildAccepted : Obligations.BuildAccepted := by
  intro s w h he hb hwidth hheight hw hh hfits hwritten
  have hwidth : asI32 s.ops.xwidth = w := hwidth
  have hheight : asI32 s.ops.yheight = h := hheight
  have hprod : asI32 s.ops.xwidth * asI32 s.ops.yheight = ((w * h : Nat) : Int) := by
    rw [hwidth, hheight, Nat.cast_mul]
  have hall : firstUnwritten s (w * h) 0 = none := firstUnwritten_none.mpr fun i _ hi => hwritten i (by omega)
  have hcheck : acceptCheck .build s = none := by
    rw [acceptCheck_build_empty he, buildCheck_fits (by omega) (by omega) (by rw [hprod]; exact_mod_cast hfits), hprod,
      Int.toNat_natCast, hall, Option.map_none]
  refine ⟨_, exec_command_accepted (c := .build) ⟨.inl he, hb⟩ hcheck, ?_⟩
  have htabW : (asI32 s.ops.xwidth).toNat = w := by rw [hwidth, Int.toNat_natCast]
  have htabH : (asI32 s.ops.yheight).toNat = h := by rw [hheight, Int.toNat_natCast]
  rw [acceptStart, startBuild, htabW, htabH]
  rfl

/-- Settles O29: each check is reached where the ones before it pass. -/
theorem buildChecksInOrder : Obligations.BuildChecksInOrder := by
  intro s he hb
  have raises {code : FaultCode} {info : Word} (h : buildCheck s = some (code, info)) :
      exec .build s = .next (raiseFault code info s) :=
    exec_command_rejected (c := .build) ⟨.inl he, hb⟩ ((acceptCheck_build_empty he).trans h)
  refine ⟨fun hdim => raises (buildCheck_badDim hdim), fun hw hh hsize => raises (buildCheck_size hw hh hsize),
    fun hw hh hfits i hi hgap hbelow => raises ?_⟩
  rw [buildCheck_fits hw hh hfits, firstUnwritten_eq_some (Int.lt_toNat.mpr hi) hgap hbelow, Option.map_some]

/-! ## BUILD's completion -/

section BuiltTable

variable (unit : Byte → Word) (cell : Nat → Byte) {w h : Nat} (unbuilt : Nat → Word)

/-- A memory written by BUILD is read as the table's list of cells. -/
theorem lookup_built (i : Nat) :
    Memory.lookup (Memory.ofListFrom 0 (scalarTable unit cell w h)) i = (scalarTable unit cell w h)[i]? := by
  simp [lookup_ofListFrom]

/-- R85: BUILD lists no cell beyond the buffer. -/
theorem lookup_built_beyond {i : Nat} (hi : w * h ≤ i) :
    Memory.lookup (Memory.ofListFrom 0 (scalarTable unit cell w h)) i = none := by
  rw [lookup_built, List.getElem?_eq_none_iff, length_scalarTable, Nat.mul_comm]
  exact hi

/-- R193: in a memory written by BUILD a cell is the row-local running sum plus the cell above. -/
theorem built_recurrence {x y : Nat} (hx : x < w) (hy : y < h) :
    let built (i : Nat) : Word := (Memory.lookup (Memory.ofListFrom 0 (scalarTable unit cell w h)) i).getD (unbuilt i)
    built (y * w + x) =
      sumRange (fun i => unit (cell (y * w + i))) (x + 1) 0 + if y = 0 then 0 else built ((y - 1) * w + x) := by
  simp only [lookup_built, scalarTable_cell unit cell hx hy, Option.getD_some]
  cases y with
  | zero => rfl
  | succ y =>
    have above := scalarTable_cell unit cell hx (Nat.lt_of_succ_lt hy)
    simp only [Nat.add_sub_cancel, List.getD_eq_getElem?_getD, above, Option.getD_some]

end BuiltTable

/-- Settles O30: both tables are lists of the scalar recurrence's cells. -/
theorem buildFollowsRecurrence : Obligations.BuildFollowsRecurrence := by
  intro s hp
  exact ⟨_, engineTurn_pending hp, rfl,
    fun _ hi => ⟨lookup_built_beyond pixelValue (srcCell s) hi, lookup_built_beyond pixelNonZero (srcCell s) hi⟩,
    fun _ _ hx hy => ⟨built_recurrence pixelValue (srcCell s) (Config.unspecifiedSum s.era) hx hy,
      built_recurrence pixelNonZero (srcCell s) (Config.unspecifiedNz s.era) hx hy⟩⟩

/-! ## The exact corner sums -/

theorem regionSum_single (w : Nat) (f : Nat → Nat) (x y : Nat) : regionSum w f x y x y = f (y * w + x) := by
  simp [regionSum]

theorem cornerSum_mono_rows (w : Nat) (f : Nat → Nat) (a : Nat) {b b' : Nat} (h : b ≤ b') :
    cornerSum w f a b ≤ cornerSum w f a b' :=
  Finset.sum_le_sum_of_subset (Finset.range_mono h)

section CornerSums

variable {cell : Nat → Word} {w h : Nat} {f : Nat → Nat} (hc : HoldsCornerSums cell w h f)
include hc

/-- R200: a cell is at least every cell above and to the left of it. -/
theorem HoldsCornerSums.mono {x x' y y' : Nat} (hx : x ≤ x') (hxw : x' < w) (hy : y ≤ y') (hyh : y' < h) :
    (cell (y * w + x)).toNat ≤ (cell (y' * w + x')).toNat := by
  rw [hc x y (by omega) (by omega), hc x' y' hxw hyh, regionSum_zero_zero, regionSum_zero_zero]
  calc cornerSum w f (x + 1) (y + 1) ≤ cornerSum w f (x' + 1) (y + 1) := cornerSum_mono_columns w f (by omega) _
    _ ≤ cornerSum w f (x' + 1) (y' + 1) := cornerSum_mono_rows w f _ (by omega)

/-- R194: the classic summed-area recurrence, with 0 for a cell before an edge: inclusion and exclusion around a single
cell. -/
theorem HoldsCornerSums.classic {x y : Nat} (hx : x < w) (hy : y < h) :
    (cell (y * w + x)).toNat + (if x = 0 ∨ y = 0 then 0 else (cell ((y - 1) * w + (x - 1))).toNat) =
      f (y * w + x) + (if x = 0 then 0 else (cell (y * w + (x - 1))).toNat) +
        (if y = 0 then 0 else (cell ((y - 1) * w + x)).toNat) := by
  have hie := (cornerSum_inclusion_exclusion w f (Nat.le_refl x) (Nat.le_refl y)).trans (Nat.add_right_comm _ _ _)
  rw [regionSum_single, ← hc.cell_before hx hy, ← hc.cell_before hx.le hy.le, ← hc.cell_before hx hy.le,
    ← hc.cell_before hx.le hy] at hie
  cases x with
  | zero => cases y <;> simpa using hie
  | succ x => cases y <;> simpa [← Nat.add_assoc] using hie

end CornerSums

theorem toNat_pixelValue_le (v : Byte) : (pixelValue v).toNat ≤ 255 := by
  rw [toNat_pixelValue]
  have := v.isLt
  omega

theorem toNat_pixelNonZero_le (v : Byte) : (pixelNonZero v).toNat ≤ 255 := by
  rw [toNat_pixelNonZero]
  split <;> omega

section Build

variable {s : State} (hfits : s.tabW * s.tabH ≤ Config.maxCells)
include hfits

/-- R194, R228: BUILD leaves exact corner sums in SUM. -/
theorem completeBuild_sumCell : HoldsCornerSums (sumCell (completeBuild s)) s.tabW s.tabH (pixelNat s) := by
  have built := holdsCornerSums_scalarTable pixelValue (srcCell s) toNat_pixelValue_le hfits
    (Config.unspecifiedSum s.era)
  simp only [toNat_pixelValue] at built
  exact built

/-- R194, R228: BUILD leaves exact corner counts in NZ. -/
theorem completeBuild_nzCell : HoldsCornerSums (nzCell (completeBuild s)) s.tabW s.tabH (nonZeroNat s) := by
  have built := holdsCornerSums_scalarTable pixelNonZero (srcCell s) toNat_pixelNonZero_le hfits
    (Config.unspecifiedNz s.era)
  simp only [toNat_pixelNonZero] at built
  exact built

end Build

/-- Settles O31: the tables hold exact corner sums, and four of those give the classic recurrence. -/
theorem buildClosedForm : Obligations.BuildClosedForm := by
  intro s hp hfits
  have hsum := completeBuild_sumCell hfits
  have hnz := completeBuild_nzCell hfits
  exact ⟨_, engineTurn_pending hp, fun x y hx hy => ⟨hsum x y hx hy, hnz x y hx hy, hsum.classic hx hy⟩⟩

/-- Settles O32: in READY both tables hold corner sums, and a larger block has a larger sum. -/
theorem tablesMonotone : Obligations.TablesMonotone := by
  intro s hi hr x y hx hy
  have hd := hi.dims (.inr hr)
  have hsum := sumCell_holdsCornerSums hd (hi.tables hr)
  have hnz := nzCell_holdsCornerSums hd (hi.tables hr)
  have hleft : x - 1 ≤ x := Nat.sub_le x 1
  have hup : y - 1 ≤ y := Nat.sub_le y 1
  exact ⟨fun _ => ⟨hsum.mono hleft hx le_rfl hy, hnz.mono hleft hx le_rfl hy⟩,
    fun _ => ⟨hsum.mono le_rfl hx hup hy, hnz.mono le_rfl hx hup hy⟩⟩

/-! ## Table reads -/

/-- R226: a table of exact corner sums answers a latched read inside it with the sum at the latched cell. -/
theorem HoldsCornerSums.toNat_tableRead {s : State} {cell : Nat → Word} {f : Nat → Nat}
    (hc : HoldsCornerSums cell s.tabW s.tabH f) (hcell : CellInTable s) :
    (cell (tableReadIndex s)).toNat = regionSum s.tabW f 0 0 (asI32 s.lat.x0).toNat (asI32 s.lat.y0).toNat := by
  obtain ⟨hx, hxw, hy, hyh⟩ := hcell
  have hindex : tableReadIndex s = (asI32 s.lat.y0).toNat * s.tabW + (asI32 s.lat.x0).toNat := by
    rw [← cellIndex_natCast, Int.toNat_of_nonneg hx, Int.toNat_of_nonneg hy]
    rfl
  rw [hindex]
  exact hc _ _ (by omega) (by omega)

/-- Settles O39: the invariant keeps the latched cell inside the table and the table exact. -/
theorem tableReadsReturnCells : Obligations.TableReadsReturnCells := by
  intro s hi
  have latched {c : Command} (hp : Pending c s) (hc : c.readsCell = true) : CellInTable s := by
    obtain ⟨hb, -, -, hcmd⟩ := hp
    exact hi.pendingCell c hb hcmd hc
  refine ⟨fun hp => ?sum, fun hp => ?count⟩
  case sum =>
    have hr := hi.ready_of_pending hp rfl
    have hsum := sumCell_holdsCornerSums (hi.dims (.inr hr)) (hi.tables hr)
    obtain ⟨hu32, hframe⟩ := finish_u32 (sumCell s (tableReadIndex s)) s
    exact ⟨_, engineTurn_pending hp, (congrArg BitVec.toNat hu32).trans (hsum.toNat_tableRead (latched hp rfl)), hframe⟩
  case count =>
    have hr := hi.ready_of_pending hp rfl
    have hnz := nzCell_holdsCornerSums (hi.dims (.inr hr)) (hi.tables hr)
    obtain ⟨hu32, hframe⟩ := finish_u32 (nzCell s (tableReadIndex s)) s
    exact ⟨_, engineTurn_pending hp, (congrArg BitVec.toNat hu32).trans (hnz.toNat_tableRead (latched hp rfl)), hframe⟩

/-! ## The vectorised rows -/

section Rows

variable {L : Nat}

/-- R166: over lanes loaded from a row, the lane operation leaves the scalar running sum through each column. -/
theorem lanePrefix_eq_sumRange (hL : L = 8 ∨ L = 16) {v : Lanes L Word} {val : Nat → Word} {x : Nat}
    (hv : ∀ k : Fin L, v k = val (x + k)) (k : Fin L) : lanePrefix v k = sumRange val (k + 1) x := by
  have hlanes : ∑ j : Fin L, (if j ≤ k then v j else 0) = ∑ i ∈ Finset.range L, if i ≤ k then val (x + i) else 0 := by
    simp only [Finset.sum_range, hv, Fin.le_def]
  have hcolumns : (Finset.range L).filter (· ≤ k.val) = Finset.range (k + 1) := by
    ext i
    simp only [Finset.mem_filter, Finset.mem_range]
    omega
  rw [lanePrefix_eq_sum hL, hlanes, ← Finset.sum_filter, hcolumns, sumRange_eq_sum]

/-- R169, R195: the last lane carries the running sum over the whole group. -/
theorem laneLast_eq_sumRange (hL : L = 8 ∨ L = 16) {p : Lanes L Word} {c : Word} {val : Nat → Word} {x : Nat}
    (hp : ∀ k : Fin L, p k = c + sumRange val (k + 1) x) : laneLast p = c + sumRange val L x := by
  have hpos : 0 < L := by omega
  rw [laneLast, dif_pos hpos, hp, Nat.sub_add_cancel hpos]

/-- A list of lanes that hold the row's running sums, with the cells above added, is that part of the scalar row. -/
theorem ofFn_eq_scanRow {p : Lanes L Word} {c : Word} {val : Nat → Word} {x : Nat} (above : Nat → Word)
    (hp : ∀ k : Fin L, p k = c + sumRange val (k + 1) x) :
    List.ofFn (fun k => p k + above (x + k.val)) = scanRow val above L x c := by
  refine List.ext_getElem? fun k => ?_
  by_cases hk : k < L
  · rw [getElem?_scanRow _ _ _ _ _ _ hk, List.getElem?_ofFn, dif_pos hk, hp]
  · simp [hk]

/-- R195: the lane groups of a row are the scalar row over their columns, and the carry out is its
running sum. -/
theorem rowGroups_eq_scanRow (hL : L = 8 ∨ L = 16) {load : Nat → Lanes L Word} {val : Nat → Word}
    (hload : ∀ x (k : Fin L), load x k = val (x + k)) (above : Nat → Word) (g x : Nat) (c : Word) :
    rowGroups load above g x c = (scanRow val above (L * g) x c, c + sumRange val (L * g) x) := by
  induction g generalizing x c with
  | zero => simp [rowGroups, scanRow]
  | succ g ih =>
    have hp (k : Fin L) : laneAdd (lanePrefix (load x)) (laneBroadcast c) k = c + sumRange val (k + 1) x := by
      rw [laneAdd, laneBroadcast, lanePrefix_eq_sumRange hL (hload x), add_comm]
    rw [rowGroups, ofFn_eq_scanRow above hp, laneLast_eq_sumRange hL hp, ih, Nat.mul_succ, Nat.add_comm (L * g),
      scanRow_add, sumRange_add, add_assoc]

variable {lane : Lanes L Byte → Lanes L Word} {unit : Byte → Word}

/-- R195, R196: full lane groups and a scalar tail give the scalar row, where a lane holds what the scalar rule adds. -/
theorem vecRow_eq_scanRow (hL : L = 8 ∨ L = 16) (hlane : ∀ b k, lane b k = unit (b k)) (cell : Nat → Byte) (w y : Nat)
    (above : Nat → Word) :
    vecRow L lane unit cell w y above = scanRow (fun x => unit (cell (y * w + x))) above w 0 0 := by
  have hload (x : Nat) (k : Fin L) : lane (laneLoad L cell (y * w + x)) k = unit (cell (y * w + (x + k))) := by
    rw [hlane, laneLoad, Nat.add_assoc]
  have hrow := scanRow_add (fun x => unit (cell (y * w + x))) above (L * (w / L)) (w % L) 0 0
  rw [Nat.div_add_mod, Nat.zero_add] at hrow
  rw [vecRow, rowGroups_eq_scanRow (val := fun x => unit (cell (y * w + x))) hL hload, hrow]

/-- R197: the rows agree, and the row loop is the same. -/
theorem vecTable_eq_scalarTable (hL : L = 8 ∨ L = 16) (hlane : ∀ b k, lane b k = unit (b k)) (cell : Nat → Byte)
    (w h : Nat) : vecTable L lane unit cell w h = scalarTable unit cell w h := by
  simp only [vecTable, scalarTable, vecRow_eq_scanRow hL hlane]

end Rows

/-- Settles O49: widening and the non-zero mask are, lane by lane, what the scalar rules add. -/
theorem buildPathsAgree : Obligations.BuildPathsAgree :=
  fun _ hL cell w h => ⟨vecTable_eq_scalarTable hL laneWiden_apply cell w h,
    vecTable_eq_scalarTable hL laneNzmask_apply cell w h⟩

end Sys2Proof.Machine
end

section
/-! PROOFS. Every step answers and the ENGINE raises no fault (45_control.md R261; 60_exceptions.md R316), and what the
register writes and the forbidden accesses do in every state, FAULTED included (45_control.md R264 to R273). -/

namespace Sys2Proof

/-! ## The decoder on accesses that are no command -/

section Decode

variable {off : Offset} {size : Nat}

/-- R88, R273: an access of another width, or not aligned, is decoded as malformed. -/
theorem decode_malformed_write (h : malformed off size = true) (data : Word) :
    decode (.write off size data) = .ok (.busMalformed .write off size) :=
  if_pos h

theorem decode_malformed_read (h : malformed off size = true) :
    decode (.read off size) = .ok (.busMalformed .read off size) :=
  if_pos h

theorem decode_read (h : malformed off size = false) : decode (.read off size) = .ok (.rd off) :=
  if_neg (Bool.eq_false_iff.mp h)

/-- R111: any other write but to CMD is decoded by its offset. -/
theorem decode_registerWrite (h : malformed off size = false) (hcmd : off ≠ cmdOffset) (data : Word) :
    decode (.write off size data) = .ok (decodeWrite off data) := by
  simp [decode, h, hcmd]

/-- R111, R273, R312: the aligned offsets that R273 lists are read-only or reserved. -/
theorem wellFormed_wrRoOrReserved (data : Word) (h4 : off.toNat % 4 = 0)
    (hoff : off ∈ ([0x000, 0x004, 0x010] : List Offset) ∨ 0x044 ≤ off.toNat) :
    (Instr.wrRoOrReserved off data).wellFormed = true := by
  have hprotected : readOnlyOffset off = true ∨ reservedOffset off = true := by
    rcases hoff with hlow | hhigh
    · simp only [List.mem_cons, List.not_mem_nil, or_false] at hlow
      exact .inl (by rcases hlow with rfl | rfl | rfl <;> rfl)
    · have hbound : off.toNat ≤ 0x05C ∨ 0x060 ≤ off.toNat := by omega
      exact hbound.imp (fun h => by simp [readOnlyOffset, hhigh, h]) (fun h => by simp [reservedOffset, h])
  simpa [Instr.wellFormed, malformed_eq_false_iff.mpr ⟨rfl, h4⟩] using hprotected

end Decode

end Sys2Proof

namespace Sys2Proof.Machine

/-! ## No step stops the machine -/

section Answers

variable {s : State}

theorem hostTurn_isNext (x : BusTxn) (s : State) : ∃ t, hostTurn x s = .next t := by
  unfold hostTurn
  split
  · exact ⟨_, rfl⟩
  · split
    · exact exec_isNext _ s
    · exact ⟨_, rfl⟩

/-- R261: under the invariant what is latched is a command, so that the ENGINE finds what to complete. -/
theorem Invariant.engineTurn_isNext (hi : Invariant s) : ∃ t, engineTurn s = .next t := by
  cases hen : engineEnabled s with
  | false => exact ⟨s, engineTurn_of_disabled hen⟩
  | true =>
    obtain ⟨hbusy, -, hrst⟩ := engineEnabled_iff.mp hen
    obtain ⟨c, hp⟩ := hi.exists_pending hbusy hrst
    exact ⟨_, engineTurn_pending hp⟩

theorem Invariant.takeInput_isNext (hi : Invariant s) (e : Input) : ∃ t, takeInput e s = .next t := by
  cases e with
  | access x => exact hostTurn_isNext x s
  | engine => exact hi.engineTurn_isNext
  | rstAssert | rstRelease => exact ⟨_, rfl⟩

end Answers

/-- Settles O55: the HOST's turn answers in every state, the ENGINE's under the invariant, and the reset input is
always taken. -/
theorem stepAlwaysAnswers : Obligations.StepAlwaysAnswers := by
  intro s hi
  cases hscript : s.host.script with
  | nil => rw [step_nil hscript]; exact hi.engineTurn_isNext
  | cons e rest => rw [step_cons hscript]; exact (hi.withScript rest).takeInput_isNext e

/-! ## The ENGINE raises no fault -/

/-- R316: no completion writes the fault registers; BUILD ends in READY, CLEAR in EMPTY, every other command where it
was. -/
theorem completeCommand_keeps_fault (c : Command) {s : State} (hrun : s.engine ≠ .faulted) :
    (completeCommand c s).faultCode = s.faultCode ∧ (completeCommand c s).faultInfo = s.faultInfo ∧
      (completeCommand c s).engine ≠ .faulted := by
  by_cases hb : c = .build
  · subst hb; exact ⟨rfl, rfl, nofun⟩
  by_cases hc : c = .clear
  · subst hc; exact ⟨rfl, rfl, nofun⟩
  obtain ⟨res, hres⟩ := completeCommand_results hb hc s
  rw [hres]; exact ⟨rfl, rfl, hrun⟩

/-- Settles O24: the ENGINE's turn does nothing, or completes a command outside FAULTED, which neither enters FAULTED
nor writes the fault registers. -/
theorem engineRaisesNoFault : Obligations.EngineRaisesNoFault := by
  intro s t h
  rcases engineTurn_cases h with ⟨-, rfl⟩ | ⟨hen, c, -, rfl⟩
  · exact ⟨rfl, rfl, Iff.rfl⟩
  · obtain ⟨-, hrun, -⟩ := engineEnabled_iff.mp hen
    obtain ⟨hcode, hinfo, hrun'⟩ := completeCommand_keeps_fault c hrun
    exact ⟨hcode, hinfo, iff_of_false hrun' hrun⟩

/-! ## What the filters let through -/

section Filters

variable {s : State} {off : Word} {act : State → State}

/-- R272: in FAULTED a filtered write is ignored. -/
theorem next_unlessFaulted_faulted (hf : s.engine = .faulted) :
    (.next (unlessFaulted act s) : Host.Outcome State Fault Refusal) = .next s :=
  congrArg _ (unlessFaulted_faulted hf)

theorem next_unlessFaulted_running (hf : s.engine ≠ .faulted) :
    (.next (unlessFaulted act s) : Host.Outcome State Fault Refusal) = .next (act s) :=
  congrArg _ (unlessFaulted_running hf)

/-! R264, R266, R267: the three filters of the dimension and pixel writes, in their order. -/

theorem next_loading_busy (hf : s.engine ≠ .faulted) (hb : s.busy = true) :
    (.next (unlessFaulted (unlessBusy off (unlessReady off act)) s) : Host.Outcome State Fault Refusal) =
      .next (raiseFault .busy off s) := by
  rw [unlessFaulted_running hf, unlessBusy_busy hb]

theorem next_loading_ready (hr : s.engine = .ready) (hb : s.busy = false) :
    (.next (unlessFaulted (unlessBusy off (unlessReady off act)) s) : Host.Outcome State Fault Refusal) =
      .next (raiseFault .immutable off s) := by
  rw [unlessFaulted_running (by simp [hr]), unlessBusy_idle hb, unlessReady_ready hr]

theorem next_loading (hf : s.engine ≠ .faulted) (hr : s.engine ≠ .ready) (hb : s.busy = false) :
    (.next (unlessFaulted (unlessBusy off (unlessReady off act)) s) : Host.Outcome State Fault Refusal) =
      .next (act s) := by
  rw [unlessFaulted_running hf, unlessBusy_idle hb, unlessReady_other hr]

end Filters

/-! ## CTRL and STATUS -/

/-- Settles O9: bit 0 selects between the reset action and the write of IE. -/
theorem ctrlWriteResetsOrSetsEnable : Obligations.CtrlWriteResetsOrSetsEnable :=
  fun s _ =>
    ⟨fun hreset => ⟨resetBlock s, congrArg _ (if_pos hreset), atReset_resetBlock s s.host, rfl, irq_quiet rfl nofun⟩,
      fun hkeep => congrArg _ (if_neg (Bool.eq_false_iff.mp hkeep))⟩

/-- R271: what is pending does not depend on DONE. -/
theorem Pending.acknowledge {s : State} {c : Command} (hp : Pending c s) (data : Word) :
    Pending c (if data.getLsbD 1 then { s with done := false } else s) := by
  split <;> exact hp

/-- Settles O13: the acknowledging write leaves the pending command pending, and every completion sets DONE. -/
theorem statusWriteClearsDone : Obligations.StatusWriteClearsDone :=
  fun _ data => ⟨rfl, fun _ hp =>
    have hp' := hp.acknowledge data
    ⟨_, _, rfl, hp', engineTurn_pending hp', finishCommand_done _⟩⟩

/-! ## Operand registers -/

/-- Settles O14: both writes pass the three filters of R264. -/
theorem dimensionWrites : Obligations.DimensionWrites :=
  fun _ _ =>
    ⟨fun hf => ⟨next_unlessFaulted_faulted hf, next_unlessFaulted_faulted hf⟩,
      fun hf hb => ⟨next_loading_busy hf hb, next_loading_busy hf hb⟩,
      fun hr hb => ⟨next_loading_ready hr hb, next_loading_ready hr hb⟩,
      fun hf hr hb => ⟨next_loading hf hr hb, next_loading hf hr hb⟩⟩

/-- Settles O15: of the three filters SRC_ADDR's write passes the first two. -/
theorem srcAddrWrites : Obligations.SrcAddrWrites :=
  fun _ _ =>
    ⟨fun hf => next_unlessFaulted_faulted hf,
      fun hf hb => (next_unlessFaulted_running hf).trans (congrArg _ (unlessBusy_busy hb)),
      fun hf hb => (next_unlessFaulted_running hf).trans (congrArg _ (unlessBusy_idle hb))⟩

/-- Settles O18: each of the six writes passes the filter of FAULTED alone. -/
theorem queryOperandWrites : Obligations.QueryOperandWrites := by
  intro s data
  refine ⟨fun hf => ?ignored, fun hf => ?stored⟩
  case ignored =>
    have h (f : OperandRegs → OperandRegs) := next_unlessFaulted_faulted (act := setOperands f) hf
    exact ⟨h _, h _, h _, h _, h _, h _⟩
  case stored =>
    have h (f : OperandRegs → OperandRegs) := next_unlessFaulted_running (act := setOperands f) hf
    exact ⟨h _, h _, h _, h _, h _, h _⟩

/-! ## Pixels -/

section Pixels

variable {s : State} {data : Word}

theorem storeData8_beyond (h : Config.maxCells ≤ s.srcAddr.toNat) :
    storeData8 data s = raiseFault .srcRange s.srcAddr s :=
  if_pos h

theorem storeData8_within (h : s.srcAddr.toNat < Config.maxCells) :
    storeData8 data s =
      { s with src := Memory.insert s.srcAddr.toNat (dataByte data 0) s.src, srcAddr := s.srcAddr + 1 } :=
  if_neg (Nat.not_le.mpr h)

/-- Four cells from index `a` written with the values of `f`, the lowest first. -/
def insertFour {α : Type} (a : Nat) (f : Nat → α) (m : List (Nat × α)) : List (Nat × α) :=
  Memory.insert (a + 3) (f 3) (Memory.insert (a + 2) (f 2) (Memory.insert (a + 1) (f 1) (Memory.insert a (f 0) m)))

/-- The four cells read as their values, every other cell as before. -/
theorem lookup_insertFour {α : Type} (a : Nat) (f : Nat → α) (m : List (Nat × α)) (i : Nat) :
    Memory.lookup (insertFour a f m) i = if a ≤ i ∧ i < a + 4 then some (f (i - a)) else Memory.lookup m i := by
  simp only [insertFour, lookup_insert]
  by_cases hin : a ≤ i ∧ i < a + 4
  · obtain ⟨k, rfl⟩ := Nat.exists_eq_add_of_le hin.1
    have hk : k < 4 := by omega
    interval_cases k <;> simp
  · rw [if_neg hin, if_neg (by omega), if_neg (by omega), if_neg (by omega), if_neg (by omega)]

theorem storeData32_beyond (h : Config.maxCells < s.srcAddr.toNat + 4) :
    storeData32 data s = raiseFault .srcRange s.srcAddr s :=
  if_pos h

theorem storeData32_within (h : s.srcAddr.toNat + 4 ≤ Config.maxCells) :
    storeData32 data s =
      { s with src := insertFour s.srcAddr.toNat (dataByte data) s.src, srcAddr := s.srcAddr + 4 } := by
  have hin : ¬ s.srcAddr.toNat + 4 > Config.maxCells := Nat.not_lt.mpr h
  simp only [storeData32, if_neg hin, storePixel, insertFour]

end Pixels

/-- Settles O16: past the three filters the store writes one listed cell, or finds SRC_ADDR out of range. -/
theorem srcData8Stores : Obligations.SrcData8Stores := by
  intro s data
  exact ⟨fun hf => next_unlessFaulted_faulted hf, fun hf hb => next_loading_busy hf hb,
    fun hr hb => next_loading_ready hr hb,
    fun hf hr hb hout => (next_loading hf hr hb).trans (congrArg _ (storeData8_beyond hout)),
    fun hf hr hb hin => ⟨_, (next_loading hf hr hb).trans (congrArg _ (storeData8_within hin)), rfl,
      fun i => lookup_insert _ _ i _⟩⟩

/-- Settles O17: past the three filters the store writes four listed cells, or finds the last one out of range. -/
theorem srcData32Stores : Obligations.SrcData32Stores := by
  intro s data
  exact ⟨fun hf => next_unlessFaulted_faulted hf, fun hf hb => next_loading_busy hf hb,
    fun hr hb => next_loading_ready hr hb,
    fun hf hr hb hout => (next_loading hf hr hb).trans (congrArg _ (storeData32_beyond hout)),
    fun hf hr hb hin => ⟨_, (next_loading hf hr hb).trans (congrArg _ (storeData32_within hin)), rfl,
      fun i => lookup_insertFour _ _ _ i⟩⟩

/-! ## Forbidden accesses -/

/-- R88, R273: a malformed read returns 0 after its fault, or in FAULTED without one. -/
theorem exec_malformed_read (off : Offset) (size : Nat) (s : State) :
    exec (.busMalformed .read off size) s =
      .next (returnRead 0 (unlessFaulted (raiseFault .bus (off.setWidth 32)) s)) := rfl

/-- Settles O19: the decoder tests the width and the alignment first, and both operations raise FAULT_BUS behind the
filter of FAULTED. -/
theorem forbiddenAccesses : Obligations.ForbiddenAccesses := by
  intro s off size data
  refine ⟨fun hbad => ?malformed, fun h4 hoff => ?readOnly, fun hf => ?raised, fun hf => ?ignored⟩
  case malformed =>
    have hm : malformed off size = true := by simpa [malformed] using hbad
    exact ⟨decode_malformed_write hm data, decode_malformed_read hm⟩
  case readOnly => exact Laws.RoundTrip.wrRoOrReserved off data (wellFormed_wrRoOrReserved data h4 hoff)
  case raised =>
    refine ⟨next_unlessFaulted_running hf, next_unlessFaulted_running hf, ?_⟩
    rw [exec_malformed_read, unlessFaulted_running hf, returnRead, raiseFault_host]
  case ignored =>
    refine ⟨next_unlessFaulted_faulted hf, next_unlessFaulted_faulted hf, ?_⟩
    rw [exec_malformed_read, unlessFaulted_faulted hf, returnRead]

/-! ## Writes in FAULTED -/

section Faulted

variable {s : State}

/-- R272: of the rows of R111 only CTRL and STATUS are written in FAULTED. -/
theorem exec_row_faulted (hf : s.engine = .faulted) (data : Word) :
    ∀ p ∈ writeOperations data, p.1 ≠ 0x008 → p.1 ≠ 0x00C → exec p.2 s = .next s := by
  simp only [writeOperations, List.forall_mem_cons]
  have ignored (act : State → State) := next_unlessFaulted_faulted (act := act) hf
  exact ⟨fun h => absurd rfl h, fun _ h => absurd rfl h, fun _ _ => ignored _, fun _ _ => ignored _,
    fun _ _ => ignored _, fun _ _ => ignored _, fun _ _ => ignored _, fun _ _ => ignored _, fun _ _ => ignored _,
    fun _ _ => ignored _, fun _ _ => ignored _, fun _ _ => ignored _, fun _ _ => ignored _, nofun⟩

/-- R111, R272: a write at any offset but these two is the row of its offset, or to a read-only or
reserved offset. -/
theorem exec_decodeWrite_faulted (hf : s.engine = .faulted) {off : Offset} (hctrl : off ≠ 0x008)
    (hstatus : off ≠ 0x00C) (data : Word) : exec (decodeWrite off data) s = .next s := by
  rcases decodeWrite_cases off data with hrow | ⟨hother, -⟩
  · exact exec_row_faulted hf data _ hrow hctrl hstatus
  · rw [hother]; exact next_unlessFaulted_faulted hf

/-- R260, R272: in FAULTED every write to CMD is ignored, whether or not its word is a command's. -/
theorem hostTurn_cmdWrite_faulted (hf : s.engine = .faulted) (hrst : s.host.rst = false) (data : Word) :
    hostTurn (.write cmdOffset 4 data) s = .next s := by
  by_cases hw : ∃ c, data = commandWord c
  · obtain ⟨c, rfl⟩ := hw
    have hd : decode (.write cmdOffset 4 (commandWord c)) = .ok c.instr := by
      rw [decode_cmdWrite, decodeCommand_eq_some_iff.mpr rfl]
    rw [hostTurn_of_decode hrst hd, exec_command, acceptCommand_faulted hf]
  · rw [hostTurn_of_illegal hrst (not_exists.mp hw), acceptIllegal, acceptCommand_faulted hf]

end Faulted

/-- Settles O21, along the decoder's branches: a malformed write, a write to CMD, and a write at another offset. -/
theorem faultedIgnoresWrites : Obligations.FaultedIgnoresWrites := by
  intro s hf hrst
  refine ⟨fun off size data hoff => ?writes, fun off hwell => hostTurn_of_decode hrst (decode_read hwell)⟩
  cases hm : malformed off size with
  | true => rw [hostTurn_of_decode hrst (decode_malformed_write hm data)]; exact next_unlessFaulted_faulted hf
  | false =>
    obtain ⟨hctrl, hstatus⟩ := hoff.resolve_left (by simp [hm])
    by_cases hcmd : off = cmdOffset
    · obtain ⟨rfl, -⟩ := malformed_eq_false_iff.mp hm
      rw [hcmd]; exact hostTurn_cmdWrite_faulted hf hrst data
    · rw [hostTurn_of_decode hrst (decode_registerWrite hm hcmd data)]
      exact exec_decodeWrite_faulted hf hctrl hstatus data

end Sys2Proof.Machine
end

section
/-! PROOFS. Fault entry and the way out of FAULTED (60_exceptions.md R314, R317, R318), and the faults of the acceptance
checks of the table reads and of the span commands (60_exceptions.md R310, R311; 42_lane_primitives.md R172). -/

namespace Sys2Proof.Machine

/-! ## FAULTED is left only by a reset -/

/-- `t` is in FAULTED and describes the same fault as `s` (R318). -/
def FaultKept (s t : State) : Prop :=
  t.engine = .faulted ∧ t.faultCode = s.faultCode ∧ t.faultInfo = s.faultInfo

section Faulted

variable {s t : State}

theorem FaultKept.refl (hf : s.engine = .faulted) : FaultKept s s := ⟨hf, rfl, rfl⟩

/-- R272, R318: in FAULTED no transaction raises a fault, loads the block or is accepted as a command. -/
theorem HostEffect.faultKept (h : HostEffect s t) (hf : s.engine = .faulted) : FaultKept s t := by
  cases h with
  | fault code info host hrun => exact absurd hf hrun
  | registers => exact .refl hf
  | load src srcAddr ops hrun => exact absurd hf hrun
  | accept c hrun => exact absurd hf hrun

/-- R314, R317: in FAULTED nothing is pending, so a reset is the only effect that does not keep the fault. -/
theorem StepEffect.faulted_cases (h : StepEffect s t) (hf : s.engine = .faulted) : FaultKept s t ∨ AtReset t := by
  cases h with
  | host h => exact .inl (h.faultKept hf)
  | reset host => exact .inr (atReset_resetBlock s host)
  | complete c hp => exact absurd hf hp.not_faulted

theorem engineTurn_faultKept (h : engineTurn s = .next t) (hf : s.engine = .faulted) : FaultKept s t := by
  cases (engineTurn_disabled (.inr (.inl hf))).symm.trans h
  exact .refl hf

theorem takeInput_faulted_cases {e : Input} (h : takeInput e s = .next t) (hf : s.engine = .faulted) :
    FaultKept s t ∨ AtReset t := by
  cases e with
  | access x => exact (hostTurn_effect h).faulted_cases hf
  | engine => exact .inl (engineTurn_faultKept h hf)
  | rstAssert => cases h; exact .inl (.refl hf)
  | rstRelease =>
    cases h
    unfold releaseRst; split
    · exact .inr (atReset_resetBlock s { s.host with rst := false })
    · exact .inl (.refl hf)

end Faulted

/-- Settles O22, by whose turn it is: in FAULTED the ENGINE does nothing, and an input keeps the fault or resets. -/
theorem faultedLeftOnlyByReset : Obligations.FaultedLeftOnlyByReset := by
  intro s t hf h
  cases hscript : s.host.script with
  | nil =>
    rw [step_nil hscript] at h
    exact .inl (engineTurn_faultKept h hf)
  | cons e rest =>
    rw [step_cons hscript] at h
    rcases takeInput_faulted_cases h hf with hkept | hreset
    · exact .inl hkept
    · exact .inr hreset

/-! ## Fault entry -/

/-- R314: what fault entry writes, SUM and NZ left open. -/
theorem raiseFault_frame (code : FaultCode) (info : Word) (s : State) :
    raiseFault code info s =
      { s with engine := .faulted, faultCode := code, faultInfo := info, busy := false,
               sum := (raiseFault code info s).sum, nz := (raiseFault code info s).nz,
               era := (raiseFault code info s).era } := by
  unfold raiseFault; split <;> rfl

/-- R192, R314: where no BUILD is cancelled both tables stay. -/
theorem raiseFault_tables {s : State} (hb : s.engine ≠ .building) (code : FaultCode) (info : Word) :
    (raiseFault code info s).sum = s.sum ∧ (raiseFault code info s).nz = s.nz ∧
      (raiseFault code info s).era = s.era := by
  simp [hb]

/-- Settles O20: the fields that fault entry writes; STATUS.FAULT reads FAULTED, where the ENGINE's turn is disabled. -/
theorem faultEntryEffects : Obligations.FaultEntryEffects := by
  intro code info s t
  obtain ⟨-, -, hfault, -⟩ := statusWordFields t
  exact ⟨raiseFault_frame code info s, fun hb => raiseFault_tables hb code info, hfault.mpr (raiseFault_engine ..),
    engineTurn_disabled (.inl (raiseFault_busy ..))⟩

/-! ## Table reads outside the table -/

/-- R226, R310: in READY a table read outside the table passes the state check and fails that of its cell. -/
theorem tableRead_fails {s : State} (w : Word) (hr : s.engine = .ready)
    (hout : ¬ (0 ≤ asI32 s.ops.qX0 ∧ asI32 s.ops.qX0 ≤ (s.tabW : Int) - 1 ∧ 0 ≤ asI32 s.ops.qY0 ∧
      asI32 s.ops.qY0 ≤ (s.tabH : Int) - 1)) :
    (needTables w s).or (indexCheck w s) = some (.index, w) :=
  Option.or_eq_some_iff.mpr (.inr ⟨needTables_none.mpr (by simp [hr]), if_neg hout⟩)

/-- Settles O34: both table reads have this check, each with its own command word. -/
theorem tableReadIndexFault : Obligations.TableReadIndexFault := by
  intro s hr hb hout
  have hidle : Idle s := ⟨.inr hr, hb⟩
  exact ⟨exec_command_rejected (c := .trdSum) hidle (tableRead_fails _ hr hout),
    exec_command_rejected (c := .trdNz) hidle (tableRead_fails _ hr hout)⟩

/-! ## The checks of the span commands -/

section Span

variable {s : State}

/-- R172: the lowest unwritten index of a range is the one that the scan finds, wherever the range begins. -/
theorem firstUnwritten_of_lowest {n a i : Nat} (ha : a ≤ i) (hi : i < a + n) (hgap : srcValid s i = false)
    (hbelow : ∀ j, a ≤ j → j < i → srcValid s j = true) : firstUnwritten s n a = some i := by
  cases hfirst : firstUnwritten s n a with
  | none =>
    have hwritten := firstUnwritten_none.mp hfirst i ha hi
    simp [hgap] at hwritten
  | some k =>
    obtain ⟨hak, -, hkgap, hkbelow⟩ := firstUnwritten_some hfirst
    rcases Nat.lt_trichotomy k i with hlt | rfl | hgt
    · simp [hbelow k hak hlt] at hkgap
    · rfl
    · simp [hkbelow i ha hgt] at hgap

/-- R311: a span that ends above `MAX_CELLS` fails the first check. -/
theorem spanCheck_range (w : Word) (hrange : Config.maxCells < s.ops.spanAddr.toNat + s.ops.spanLen.toNat) :
    spanCheck w s = some (.spanRange, w) :=
  if_pos hrange

/-- R172, R304: a span inside SRC fails at its lowest unwritten index. -/
theorem spanCheck_unwritten (w : Word) {i : Nat}
    (hfits : s.ops.spanAddr.toNat + s.ops.spanLen.toNat ≤ Config.maxCells)
    (hfirst : firstUnwritten s s.ops.spanLen.toNat s.ops.spanAddr.toNat = some i) :
    spanCheck w s = some (.srcUnwritten, BitVec.ofNat 32 i) := by
  rw [spanCheck, if_neg (Nat.not_lt.mpr hfits), hfirst]

end Span

/-- Settles O41: the check of the pixels is reached where that of the range passes. -/
theorem spanChecksInOrder : Obligations.SpanChecksInOrder := by
  intro s hidle a n
  have raises {code : FaultCode} {sumInfo nzcInfo : Word}
      (hsum : spanCheck (commandWord .spanSum) s = some (code, sumInfo))
      (hnzc : spanCheck (commandWord .spanNzc) s = some (code, nzcInfo)) :
      exec .spanSum s = .next (raiseFault code sumInfo s) ∧ exec .spanNzc s = .next (raiseFault code nzcInfo s) :=
    ⟨exec_command_rejected (c := .spanSum) hidle hsum, exec_command_rejected (c := .spanNzc) hidle hnzc⟩
  refine ⟨fun hrange => raises (spanCheck_range _ hrange) (spanCheck_range _ hrange),
    fun hfits i ha hi hgap hbelow => ?unwritten⟩
  have hfirst := firstUnwritten_of_lowest ha hi hgap hbelow
  exact raises (spanCheck_unwritten _ hfits hfirst) (spanCheck_unwritten _ hfits hfirst)

end Sys2Proof.Machine
end

section
/-! PROOFS. What the host reads after a reset, and the reset input (70_reset_and_hazards.md R340, R341). -/

namespace Sys2Proof.Machine

/-! ## The registers after a reset -/

section AtReset

variable {s : State}

/-- R34, R341: IE is 0. -/
theorem AtReset.ctrlWord_eq_zero (h : AtReset s) : ctrlWord s = 0 := by
  simp [ctrlWord_eq, h.ie]

/-- R35, R341: EMPTY and no fault are encoded as 0, and the three flags are clear. -/
theorem AtReset.statusWord_eq_zero (h : AtReset s) : statusWord s = 0 := by
  have hflag : faultFlag s = false := by simp [faultFlag, h.engine]
  simp [statusWord, hflag, h.engine, h.busy, h.done, h.faultCode, EngineState.code, FaultCode.byte]

/-- R32, R341: of the readable registers ID and CAP alone are not 0 after a reset. -/
theorem AtReset.readableRegisters_value (h : AtReset s) :
    ∀ p ∈ readableRegisters s, p.1 = 0x000 ∨ p.1 = 0x004 ∨ p.2 = 0 := by
  simp [readableRegisters, h.ctrlWord_eq_zero, h.statusWord_eq_zero, h.faultInfo, h.srcAddr, h.ops, h.res]

/-- R112, R341: an offset has a row of the register table, whose value is then 0, or none. -/
theorem AtReset.readRegister_eq_zero (h : AtReset s) {off : Offset} (hid : off ≠ 0x000) (hcap : off ≠ 0x004) :
    readRegister off s = 0 := by
  rcases lookup_cases (readableRegisters s) off with ⟨v, hlookup, hrow⟩ | ⟨hnone, -⟩
  · have hv : v = 0 := ((h.readableRegisters_value _ hrow).resolve_left hid).resolve_left hcap
    simp [readRegister, hlookup, hv]
  · simp [readRegister, hnone]

/-- R58, R341: neither DONE nor FAULT is set. -/
theorem AtReset.irq_eq_false (h : AtReset s) : irq s = false :=
  irq_quiet h.done (by simp [h.engine])

end AtReset

/-- Settles O7: the two constants are rows of the register table, and the rest holds of every state that meets R341. -/
theorem resetRegisterValues : Obligations.ResetRegisterValues :=
  ⟨rfl, rfl, fun _ hid hcap => atReset_reset.readRegister_eq_zero hid hcap, atReset_reset.statusWord_eq_zero,
    atReset_reset.irq_eq_false, atReset_reset⟩

/-! ## The reset input -/

section ResetInput

variable {s : State}

/-- R340: under RST no transaction is decoded. -/
theorem hostTurn_underReset (hrst : s.host.rst = true) (x : BusTxn) : hostTurn x s = .next (ignoredAccess x s) :=
  if_pos hrst

/-- R340: the release of a held RST is the reset action and the fall of the level. -/
theorem releaseRst_held (hrst : s.host.rst = true) : releaseRst s = setRst false (resetBlock s) :=
  if_pos hrst

end ResetInput

/-- Settles O10, by the input that the step takes off the script: an access is ignored, the ENGINE's turn is disabled, and
the release resets the block. -/
theorem resetInputHoldsAndResets : Obligations.ResetInputHoldsAndResets := by
  intro s rest p
  refine ⟨step_cons, fun hrst => ?held⟩
  have hheld : p.host.rst = true := hrst
  have ignored {x : BusTxn} (hscript : s.host.script = .access x :: rest) : step s = .next (ignoredAccess x p) :=
    (step_cons hscript).trans (hostTurn_underReset hheld x)
  refine ⟨fun _ _ _ => ignored, fun _ _ => ignored, fun hscript => ?engine,
    fun hscript => ⟨setRst false (resetBlock p), ?release, atReset_resetBlock p { p.host with rst := false }, rfl⟩⟩
  case engine => exact (step_cons hscript).trans (engineTurn_disabled (.inr (.inr hheld)))
  case release => exact (step_cons hscript).trans (congrArg _ (releaseRst_held hheld))

end Sys2Proof.Machine
end
